-- ==== Sys2Proof/Word.lean ====
section
/-! DEFINITION. Words: the block's only width is 8 bits (R30, R40); the fields of LEDREG and the command
code are narrower bit vectors. Bit 0 is the least significant bit of every value (R6, R38). -/

namespace Sys2Proof

/-- An 8-bit value: LEDREG, a message byte, the message length, the ARG operand, a result code. -/
abbrev Byte := BitVec 8

/-- `zext_8(v)` of R6: a narrower value placed in the low bits of a byte. -/
abbrev zext8 {n : Nat} (v : BitVec n) : Byte := v.setWidth 8

end Sys2Proof
end

