-- ==== Sys2Proof/Config.lean ====
section
/-! DEFINITION. What the platform fixes and the spec leaves open (R4): the numbers of the four error
results, the power-up value of LEDREG, the address of the cell, and what the RESULT port shows when no
transaction drives it. None of the opaque values below can be evaluated, so nothing proved depends on
one. The literals the source does fix stand in Machine/Constants.lean. -/

namespace Sys2Proof

/-- The four error kinds a message can end in (R120 to R124, R111). -/
inductive ErrorKind where
  /-- `length == 0` (R121). -/
  | empty
  /-- the first byte is no known opcode (R122). -/
  | invalidOpCode
  /-- longer than the opcode's required length (R123). -/
  | trailingBytes
  /-- shorter than the opcode's required length; only LED_SETTINGS (R124). -/
  | missingParameters
  deriving DecidableEq, Repr

/-- The Result of a `process_message` transaction: one of five values (R120). -/
inductive Result where
  | success
  | error (kind : ErrorKind)
  deriving DecidableEq, Repr

/-- The OPEN parameters RC_EMPTY, RC_INVALID_OPCODE, RC_TRAILING_BYTES, RC_MISSING_PARAMETERS (R4, R120). -/
structure ResultCodes where
  empty : Byte
  invalidOpCode : Byte
  trailingBytes : Byte
  missingParameters : Byte
  deriving DecidableEq, Repr, Inhabited

/-- The constraint of R120: pairwise distinct and non-zero (8 bits by their type). -/
def ResultCodes.admissible (c : ResultCodes) : Bool :=
  ([0, c.empty, c.invalidOpCode, c.trailingBytes, c.missingParameters] : List Byte).Nodup

/-- The defaults that the spec's test vectors use (R120, decision D6). -/
def ResultCodes.defaults : ResultCodes :=
  { empty := 1, invalidOpCode := 2, trailingBytes := 3, missingParameters := 4 }

/-- The value on RESULT for a Result under an assignment of codes; Success is 0 (R4, R120). -/
def ResultCodes.code (c : ResultCodes) : Result → Byte
  | .success => 0
  | .error .empty => c.empty
  | .error .invalidOpCode => c.invalidOpCode
  | .error .trailingBytes => c.trailingBytes
  | .error .missingParameters => c.missingParameters

namespace Config

/-- The platform's own numbers, unconstrained (log 5). -/
opaque platformCodes : ResultCodes

/-- The error codes: the platform's numbers where they meet R120's constraint. A platform whose numbers do
not meet it is outside the spec, and the defaults stand in, so every value of this constant is an
admissible assignment and every admissible assignment is a value of it (log 5). -/
def resultCodes : ResultCodes :=
  if platformCodes.admissible then platformCodes else ResultCodes.defaults

/-- LEDREG_POWERUP: what the cell holds before the first RESET, INIT or CLEAR, a free value (R15, R142, U1; log 6). -/
opaque ledregPowerUp : Byte

/-- LEDREG_ADDR: the address of the cell in the platform's map, read by no rule (R41, U8; log 7). -/
opaque ledregAddr : Nat

/-- What the RESULT port shows while no transaction drives it: a free value, drawn anew after every move that
does not drive the port (R17, R70, R141, U7; log 4). -/
opaque undrivenResult : Nat → Byte

end Config

end Sys2Proof
end

