-- ==== Sys2Proof/Machine/Constants.lean ====
section
/-! DEFINITION. The literals of the source, R5, in one place (decision D17, log 19), and the command codes of
R60 (decision D5, log 9). They stand here, and not in Config, because the source fixes them. -/

namespace Sys2Proof.Machine.Const

/-! Fields of LEDREG (R5, R12). A mask in the register is the operand's mask shifted into place, as R5 derives it. -/

def stateShift : Nat := 0
abbrev stateWidth : Nat := 1
def stateVMask : Byte := 0x01
def stateMask : Byte := stateVMask <<< stateShift
def colorShift : Nat := 1
abbrev colorWidth : Nat := 3
def colorVMask : Byte := 0x07
def colorMask : Byte := colorVMask <<< colorShift
def brightnessShift : Nat := 4
abbrev brightnessWidth : Nat := 4
def brightnessVMask : Byte := 0x0F
def brightnessMask : Byte := brightnessVMask <<< brightnessShift

/-! Operands of the wrappers (R5, R63). Red, green and blue are bits 0, 1 and 2 of the Color VALUE (C2);
the two brightness constants are decision D8 (log 12). -/

def colorRed : Byte := 0x01
def colorGreen : Byte := 0x02
def colorBlue : Byte := 0x04
def brightnessMin : Byte := 0x00
def brightnessMax : Byte := 0x0F

/-! Opcodes of messages and the lengths they require (R5, R55). -/

def opOn : Byte := 0x00
def opOff : Byte := 0x01
def opLedSettings : Byte := 0x02
def lenOn : Byte := 1
def lenOff : Byte := 1
def lenLedSettings : Byte := 3

/-! Select codes of the command port, four bits wide (R59, R60). -/

abbrev cmdWidth : Nat := 4
def cmdClear : BitVec cmdWidth := 0x0
def cmdInit : BitVec cmdWidth := 0x1
def cmdSetState : BitVec cmdWidth := 0x2
def cmdSetColor : BitVec cmdWidth := 0x3
def cmdSetBrightness : BitVec cmdWidth := 0x4
def cmdStateOn : BitVec cmdWidth := 0x5
def cmdStateOff : BitVec cmdWidth := 0x6
def cmdColorRed : BitVec cmdWidth := 0x7
def cmdColorGreen : BitVec cmdWidth := 0x8
def cmdColorBlue : BitVec cmdWidth := 0x9
def cmdBrightnessMin : BitVec cmdWidth := 0xA
def cmdBrightnessMax : BitVec cmdWidth := 0xB

end Sys2Proof.Machine.Const

namespace Sys2Proof

/-! Values of exactly a field's width (R5, R12) and of a command code's (R59). -/

abbrev StateBits := BitVec Machine.Const.stateWidth
abbrev ColorBits := BitVec Machine.Const.colorWidth
abbrev BrightnessBits := BitVec Machine.Const.brightnessWidth
abbrev CmdCode := BitVec Machine.Const.cmdWidth

end Sys2Proof
end

