-- ==== Sys2Proof/Syntax.lean ====
section
/-! DEFINITION. The operations of the block as syntax: one constructor per row of spec/opcode_table.json, three
message opcodes (R102 to R104) and twelve commands of the Register Model (R72 to R83). Operands have
exactly the width the rules give them, so a value of Instr has no ill-formed operand (log 22). -/

namespace Sys2Proof

inductive Instr where
  /-- message ON, no parameter (R102). -/
  | on
  /-- message OFF, no parameter (R103). -/
  | off
  /-- message LED_SETTINGS, a 3-bit colour and a 4-bit brightness (R104, R111). -/
  | ledSettings (color : ColorBits) (brightness : BrightnessBits)
  /-- CLEAR (R72). -/
  | clear
  /-- INIT (R73). -/
  | init
  /-- SET_STATE, a one-bit operand (R74, R61). -/
  | setState (on : StateBits)
  /-- SET_COLOR, an 8-bit operand that the operation masks (R75). -/
  | setColor (bits : Byte)
  /-- SET_BRIGHTNESS, an 8-bit operand that the operation masks (R76). -/
  | setBrightness (value : Byte)
  /-- STATE_ON (R77). -/
  | stateOn
  /-- STATE_OFF (R78). -/
  | stateOff
  /-- COLOR_RED (R79). -/
  | colorRed
  /-- COLOR_GREEN (R80). -/
  | colorGreen
  /-- COLOR_BLUE (R81). -/
  | colorBlue
  /-- BRIGHTNESS_MIN (R82). -/
  | brightnessMin
  /-- BRIGHTNESS_MAX (R83). -/
  | brightnessMax
  deriving DecidableEq, Repr

end Sys2Proof
end

