-- ==== Sys2Proof/WellFormed.lean ====
section
/-! DEFINITION. An operation as the host presents it on a port (R21), and the duties the host has toward its
form (R150): a buffer of at least `length` bytes (R147), no reserved command code and no SET_STATE operand
above one bit (R61). A presentation that breaks a duty is refused, by name. -/

namespace Sys2Proof

/-- One operation on one of the two ports (R21). -/
inductive Operation where
  /-- the command port: CMD and ARG (R59). -/
  | command (cmd : CmdCode) (arg : Byte)
  /-- the message port: MSG_LEN and MSG_BUF, the bytes in offset order (R51, R58). -/
  | message (length : Byte) (buf : List Byte)
  deriving DecidableEq, Repr

/-- The host's duty that a presentation breaks (93_implementation_defined.md U2, U4, U5). -/
inductive BrokenDuty where
  /-- U2: the buffer holds fewer than `length` bytes. -/
  | shortBuffer
  /-- U4: SET_STATE with a bit of ARG[7:1] set. -/
  | setStateOperand (arg : Byte)
  /-- U5: a CMD code that selects no operation. -/
  | reservedCommand (cmd : CmdCode)
  deriving DecidableEq, Repr

/-- R147: "at least length bytes", taken literally (D13, C12): also where no missing byte would be read. -/
def messageSupplied (length : Byte) (buf : List Byte) : Bool :=
  decide (length.toNat ≤ buf.length)

/-- R61: the codes 0xC to 0xF select no operation. -/
def commandAssigned (cmd : CmdCode) : Bool :=
  decide (cmd.toNat < 12)

/-- R61: ARG[7:1] of a SET_STATE command (CMD 0x2) is 0. -/
def setStateOperandOk (cmd : CmdCode) (arg : Byte) : Bool :=
  decide (cmd = Machine.Const.cmdSetState → arg.toNat < 2 ^ Machine.Const.stateWidth)

/-- The duties of R150's "must" column that concern what is presented. -/
def Operation.wellFormed : Operation → Bool
  | .command cmd arg => commandAssigned cmd && setStateOperandOk cmd arg
  | .message length buf => messageSupplied length buf

end Sys2Proof
end

