-- ==== Sys2Proof/Decode.lean ====
section
/-! DEFINITION. The decoder, total on whatever is presented, and the encoder. A message decodes to an
instruction, to one of the four errors, or is refused (R100, R111); a command decodes to an instruction
or is refused (R60, R61). -/

namespace Sys2Proof

open Machine

/-- What a presented operation stands for. -/
inductive Decoded where
  /-- a well-formed operation. -/
  | instr (i : Instr)
  /-- a message that the block answers with an error (R105, R121 to R124). -/
  | error (kind : ErrorKind)
  /-- a presentation that breaks a duty of the host (R150). -/
  | refused (duty : BrokenDuty)
  deriving DecidableEq, Repr

/-- `color = buf[1] & 0x07`, a 3-bit value (R54). -/
def colorOperand (b : Byte) : ColorBits := (b &&& Const.colorVMask).setWidth Const.colorWidth

/-- `brightness = buf[2] & 0x0F`, a 4-bit value (R54). -/
def brightnessOperand (b : Byte) : BrightnessBits :=
  (b &&& Const.brightnessVMask).setWidth Const.brightnessWidth

/-- The branch of R100 on the opcode byte; `length` is not 0. The order of the tests is R100's. -/
def decodeOpcode (length op : Byte) (params : List Byte) : Decoded :=
  if op = Const.opOn then
    if Const.lenOn < length then .error .trailingBytes else .instr .on
  else if op = Const.opOff then
    if Const.lenOff < length then .error .trailingBytes else .instr .off
  else if op = Const.opLedSettings then
    if length < Const.lenLedSettings then .error .missingParameters
    else if Const.lenLedSettings < length then .error .trailingBytes
    else match params with
      | c :: b :: _ => .instr (.ledSettings (colorOperand c) (brightnessOperand b))
      | _ => .refused .shortBuffer
  else .error .invalidOpCode

/-- A message (R100, R111): the host's duty first (R147), then Empty, then the opcode byte. -/
def decodeMessage (length : Byte) (buf : List Byte) : Decoded :=
  if messageSupplied length buf then
    if length = 0 then .error .empty
    else match buf with
      | op :: params => decodeOpcode length op params
      | [] => .refused .shortBuffer
  else .refused .shortBuffer

/-- SET_STATE: only ARG[0] may be set (R61). -/
def decodeSetState (arg : Byte) : Decoded :=
  if arg.toNat < 2 ^ Const.stateWidth then .instr (.setState (arg.setWidth Const.stateWidth))
  else .refused (.setStateOperand arg)

/-- A command word (R60, R61). -/
def decodeCommand (cmd : CmdCode) (arg : Byte) : Decoded :=
  if cmd = Const.cmdClear then .instr .clear
  else if cmd = Const.cmdInit then .instr .init
  else if cmd = Const.cmdSetState then decodeSetState arg
  else if cmd = Const.cmdSetColor then .instr (.setColor arg)
  else if cmd = Const.cmdSetBrightness then .instr (.setBrightness arg)
  else if cmd = Const.cmdStateOn then .instr .stateOn
  else if cmd = Const.cmdStateOff then .instr .stateOff
  else if cmd = Const.cmdColorRed then .instr .colorRed
  else if cmd = Const.cmdColorGreen then .instr .colorGreen
  else if cmd = Const.cmdColorBlue then .instr .colorBlue
  else if cmd = Const.cmdBrightnessMin then .instr .brightnessMin
  else if cmd = Const.cmdBrightnessMax then .instr .brightnessMax
  else .refused (.reservedCommand cmd)

/-- The decoder, by port. -/
def decode : Operation → Decoded
  | .command cmd arg => decodeCommand cmd arg
  | .message length buf => decodeMessage length buf

/-- The encoder: the presentation of an instruction, ignored bits and ignored ARG zero (R55, R60, R62). -/
def encode : Instr → Operation
  | .on => .message Const.lenOn [Const.opOn]
  | .off => .message Const.lenOff [Const.opOff]
  | .ledSettings c b => .message Const.lenLedSettings [Const.opLedSettings, zext8 c, zext8 b]
  | .clear => .command Const.cmdClear 0
  | .init => .command Const.cmdInit 0
  | .setState on => .command Const.cmdSetState (zext8 on)
  | .setColor bits => .command Const.cmdSetColor bits
  | .setBrightness value => .command Const.cmdSetBrightness value
  | .stateOn => .command Const.cmdStateOn 0
  | .stateOff => .command Const.cmdStateOff 0
  | .colorRed => .command Const.cmdColorRed 0
  | .colorGreen => .command Const.cmdColorGreen 0
  | .colorBlue => .command Const.cmdColorBlue 0
  | .brightnessMin => .command Const.cmdBrightnessMin 0
  | .brightnessMax => .command Const.cmdBrightnessMax 0

/-- The offsets of the buffer that a supplied message's transaction reads, in order (R37). -/
def bufferOffsets (length : Byte) (buf : List Byte) : List Nat :=
  if length = 0 then []
  else if buf.head? = some Const.opLedSettings ∧ length = Const.lenLedSettings then [0, 1, 2]
  else [0]

/-! The numbering of spec/opcode_table.json (R64, log 3). A message row is ONE number with `buf[0]` in its most
significant byte: 8 bits for M1, 24 bits for M3. A command row is the 12-bit word `CMD ++ ARG`, which takes
two whole bytes, so 12 and 16 bits both name a command. -/

/-- The operation that a row's bits stand for; none where the bits fill no row's format. -/
def tableOperation (nbits w : Nat) : Option Operation :=
  match nbits with
  | 8 => if w < 2 ^ 8 then some (.message 1 [BitVec.ofNat 8 w]) else none
  | 12 | 16 =>
    if w < 2 ^ 12 then some (.command (BitVec.ofNat Const.cmdWidth (w / 2 ^ 8)) (BitVec.ofNat 8 w)) else none
  | 24 =>
    if w < 2 ^ 24 then
      some (.message 3 [BitVec.ofNat 8 (w / 2 ^ 16), BitVec.ofNat 8 (w / 2 ^ 8), BitVec.ofNat 8 w])
    else none
  | _ => none

/-- The instruction the decoder reads from a table word; none where it answers an error or refuses. -/
def decodeTableWord (nbits w : Nat) : Option Instr :=
  match tableOperation nbits w with
  | some o =>
    match decode o with
    | .instr i => some i
    | .error _ => none
    | .refused _ => none
  | none => none

/-- An operation's bits as the table numbers them (R64): for a message, its first `length` bytes, `buf[0]` the
most significant. -/
def Operation.tableWord : Operation → Nat
  | .command cmd arg => cmd.toNat * 2 ^ 8 + arg.toNat
  | .message length buf => (buf.take length.toNat).foldl (fun n b => n * 2 ^ 8 + b.toNat) 0

/-- How many bits the table gives the operation's form, in whole bytes. -/
def Operation.tableBits : Operation → Nat
  | .command _ _ => 16
  | .message length _ => 8 * length.toNat

end Sys2Proof
end

