-- ==== Sys2Proof/Machine/Operands.lean ====
section
/-! DEFINITION. The pure functions of the Register Model: the masked merge (R7), the value each setter writes
(R74 to R76), ENCODE and the three get primitives (R84 to R87). -/

namespace Sys2Proof.Machine

/-- `MERGE(old, mask, v)` (R7): full replace inside the mask, old bits outside it. -/
def merge (old mask v : Byte) : Byte := (old &&& ~~~mask) ||| (v &&& mask)

/-- The value SET_STATE writes over `old` (R74). -/
def stateMerged (on : StateBits) (old : Byte) : Byte :=
  merge old Const.stateMask ((zext8 on &&& Const.stateVMask) <<< Const.stateShift)

/-- The value SET_COLOR writes over `old` (R75): masked, never clamped (C1). -/
def colorMerged (bits old : Byte) : Byte :=
  merge old Const.colorMask ((bits &&& Const.colorVMask) <<< Const.colorShift)

/-- The value SET_BRIGHTNESS writes over `old` (R76): masked, never clamped (C1). -/
def brightnessMerged (value old : Byte) : Byte :=
  merge old Const.brightnessMask ((value &&& Const.brightnessVMask) <<< Const.brightnessShift)

/-- `ENCODE(s, c, b)` (R84). -/
def encodeFields (s : StateBits) (c : ColorBits) (b : BrightnessBits) : Byte :=
  (zext8 s &&& Const.stateVMask) ||| ((zext8 c &&& Const.colorVMask) <<< Const.colorShift) |||
    ((zext8 b &&& Const.brightnessVMask) <<< Const.brightnessShift)

/-- `GET_STATE(r)` (R85). -/
def getState (r : Byte) : StateBits :=
  ((r &&& Const.stateMask) >>> Const.stateShift).setWidth Const.stateWidth

/-- `GET_COLOR(r)` (R86). -/
def getColor (r : Byte) : ColorBits :=
  ((r &&& Const.colorMask) >>> Const.colorShift).setWidth Const.colorWidth

/-- `GET_BRIGHTNESS(r)` (R87). -/
def getBrightness (r : Byte) : BrightnessBits :=
  ((r &&& Const.brightnessMask) >>> Const.brightnessShift).setWidth Const.brightnessWidth

end Sys2Proof.Machine
end

