-- ==== Sys2Proof/Machine/State.lean ====
section
/-! DEFINITION. The state of the machine as plain data, the reasons a step can stop, and the state after reset.
The block itself has one register, LEDREG (R10, R18); the other fields hold what the host has still to do
(R152) and what the block has shown (R21, R33, R120). -/

namespace Sys2Proof.Machine

/-- Who accesses the cell (R144). -/
inductive Agent where
  | block
  | host
  deriving DecidableEq, Repr

/-- One access or one output, as the record of a run lists it (R33, R37, R152). -/
inductive Event where
  /-- one `MemRead(LEDREG, 1)` that returned `v` (R31). -/
  | cellRead (who : Agent) (v : Byte)
  /-- one `MemWrite(LEDREG, 1, v)` (R32). -/
  | cellWrite (who : Agent) (v : Byte)
  /-- the block reads the message byte `v` at an offset (R37). -/
  | bufRead (offset : Nat) (v : Byte)
  /-- a transaction ends with this Result on RESULT (R120). -/
  | result (r : Result)
  /-- the host takes STATE_OUT (R85). -/
  | stateOut (v : StateBits)
  /-- the host takes COLOR_OUT (R86). -/
  | colorOut (v : ColorBits)
  /-- the host takes BRIGHTNESS_OUT (R87). -/
  | brightnessOut (v : BrightnessBits)
  deriving DecidableEq, Repr

/-- One move of the host (R150, R152). A move is one step; two moves never overlap (R146, D23; log 11). -/
inductive HostMove where
  /-- the reset event (R140). -/
  | reset
  /-- present an operation on a port (R21). -/
  | operation (o : Operation)
  /-- write the cell, between operations (R36, R150, D15). -/
  | writeCell (v : Byte)
  /-- read the cell, between operations (R150). -/
  | readCell
  /-- take the decoded output STATE_OUT (R85). -/
  | readStateOut
  /-- take the decoded output COLOR_OUT (R86). -/
  | readColorOut
  /-- take the decoded output BRIGHTNESS_OUT (R87). -/
  | readBrightnessOut
  deriving DecidableEq, Repr

/-- No operation of the block faults: "None. No operation traps, hangs or aborts" (00_scope.md section 7, R107).
So there is no reason to name; the four errors are Results of a transaction, next states (R126; log 21). -/
inductive Fault where
  deriving DecidableEq, Repr

/-- Why the model gives a move no meaning. -/
inductive Refusal where
  /-- raised by no meaning: an instruction that exec rejects by name. None is left. Safe. -/
  | notModelled (mnemonic : String)
  /-- raised by a message whose buffer holds fewer than `length` bytes (U2, R147). Safe: the machine stops where
  the spec gives no meaning. -/
  | shortBuffer
  /-- raised by SET_STATE with a bit of ARG[7:1] set (U4, R61). Safe, as above. -/
  | setStateOperand (arg : Byte)
  /-- raised by the command codes 0xC to 0xF (U5, R61). Safe, as above. -/
  | reservedCommand (cmd : CmdCode)
  deriving DecidableEq, Repr

structure State where
  /-- LEDREG, the block's only register (R10, R12). -/
  ledreg : Byte
  /-- the moves the host has still to make, in order (R16, R152; log 1). -/
  pending : List HostMove
  /-- the RESULT output: the Result of the transaction that was the last move, or not driven (R17, R21, R70,
  R120). An output: no move reads it (R130; log 4). -/
  result : Option Result
  /-- the accesses and outputs so far, oldest first (R33, R152). Nothing reads it. -/
  trace : List Event
  /-- the MODEL'S OWN field: which free value the undriven RESULT port shows (U7; log 4). -/
  draws : Nat
  deriving DecidableEq, Repr

/-- Right after the reset event: LEDREG is 0x00 by its one write (R15, R140, R141), RESULT is not driven (R141).
The host's moves and `draws` are the model's choice (logs 1, 4, 14). -/
def State.reset : State :=
  { ledreg := 0x00
    pending := []
    result := none
    trace := [.cellWrite .block 0x00]
    draws := 0 }

/-- At power-up, before any RESET, INIT or CLEAR: LEDREG holds a free value and nothing has been accessed (R15,
R142; log 6). -/
def State.powerUp : State :=
  { ledreg := Config.ledregPowerUp
    pending := []
    result := none
    trace := []
    draws := 0 }

end Sys2Proof.Machine
end

