-- ==== Sys2Proof/Machine/Flags.lean ====
section
/-! DEFINITION. The block has no flag, condition code or status register (R17), so no flag is computed anywhere.
What it shows instead are its output ports, as views of State (R21): the three decoded outputs and RESULT. -/

namespace Sys2Proof.Machine

/-- STATE_OUT (R21, R85). -/
def State.stateOut (s : State) : StateBits := getState s.ledreg

/-- COLOR_OUT (R21, R86). -/
def State.colorOut (s : State) : ColorBits := getColor s.ledreg

/-- BRIGHTNESS_OUT (R21, R87). -/
def State.brightnessOut (s : State) : BrightnessBits := getBrightness s.ledreg

/-- The 8 bits on RESULT: the code of the Result that drives the port (R120), else a free value (U7; log 4). -/
def State.resultPort (s : State) : Byte :=
  match s.result with
  | some r => Config.resultCodes.code r
  | none => Config.undrivenResult s.draws

end Sys2Proof.Machine
end

