-- ==== Sys2Proof/Machine/Ops.lean ====
section
/-! DEFINITION. The named operations every meaning is made of: the accesses to the cell and to the buffer (R31, R32,
R37), the base operations of the Register Model (R72 to R76), driving and leaving RESULT (R120, R70), raising
an error (R126) with the return of Success beside it, and the host's own accesses (R150). -/

namespace Sys2Proof.Machine

namespace State

/-! Updates of one field. -/

def setLedreg (v : Byte) (s : State) : State := { s with ledreg := v }
def setPending (ms : List HostMove) (s : State) : State := { s with pending := ms }
def setResult (r : Option Result) (s : State) : State := { s with result := r }
def record (e : Event) (s : State) : State := { s with trace := s.trace ++ [e] }
def draw (s : State) : State := { s with draws := s.draws + 1 }

/-! The cell. -/

/-- `MemRead(LEDREG, 1)` by an agent: the value last written, and no change but the record (R31). -/
def memRead (who : Agent) (s : State) : Byte × State := (s.ledreg, s.record (.cellRead who s.ledreg))

/-- `MemWrite(LEDREG, 1, v)` by an agent: all eight bits (R32). -/
def memWrite (who : Agent) (v : Byte) (s : State) : State := (s.setLedreg v).record (.cellWrite who v)

/-- One read, then one write of a function of the value read; the write is made even when the value does not
change (R33, D4; log 8). -/
def readModifyWrite (f : Byte → Byte) (s : State) : State :=
  let (old, s1) := s.memRead .block
  s1.memWrite .block (f old)

/-! The base operations of the Register Model. -/

/-- `clear()` and `init()`: one full write, no read (R72, R73). -/
def clearRegister (s : State) : State := s.memWrite .block 0x00

/-- `set_state(on)` (R74). -/
def setStateField (on : StateBits) (s : State) : State := s.readModifyWrite (stateMerged on)

/-- `set_color(bits)` (R75). -/
def setColorField (bits : Byte) (s : State) : State := s.readModifyWrite (colorMerged bits)

/-- `set_brightness(value)` (R76). -/
def setBrightnessField (value : Byte) (s : State) : State := s.readModifyWrite (brightnessMerged value)

/-! RESULT. -/

/-- A transaction ends with `r` on RESULT (R120). -/
def driveResult (r : Result) (s : State) : State := (s.setResult (some r)).record (.result r)

/-- A move that produces no Result: RESULT is not driven, and the port shows a new free value (R70, U7; log 4). -/
def undriveResult (s : State) : State := (s.setResult none).draw

/-- `raise <ErrorKind>()`: the whole of error delivery. RESULT holds the error; nothing is saved, no mode or mask
changes, control goes nowhere, the cell is not accessed (R6, R126). -/
def raise (kind : ErrorKind) (s : State) : State := s.driveResult (.error kind)

/-- `return Success` (R6). There is no return from an error: none is needed (R127). -/
def returnSuccess (s : State) : State := s.driveResult .success

/-! The message buffer. -/

/-- The block reads `buf[offset]`, with no side effect (R37). A supplied message has every byte that is read. -/
def bufRead (buf : List Byte) (offset : Nat) (s : State) : State :=
  match buf[offset]? with
  | some v => s.record (.bufRead offset v)
  | none => s

/-- The buffer reads of a transaction, in order, each once (R37, R104; log 15). -/
def readBuffer (length : Byte) (buf : List Byte) (s : State) : State :=
  (bufferOffsets length buf).foldl (fun t offset => t.bufRead buf offset) s

/-- The reads that presenting an operation makes before its effect: a message's bytes; none for a command. -/
def fetchOperands (o : Operation) (s : State) : State :=
  match o with
  | .command _ _ => s
  | .message length buf => s.readBuffer length buf

/-! Moves that are no operation. -/

/-- The reset event: exactly INIT, and RESULT has no defined value after it (R140, R141). -/
def resetEvent (s : State) : State := s.clearRegister.undriveResult

/-- The host writes the cell between operations (R36, R150). -/
def hostWrite (v : Byte) (s : State) : State := (s.memWrite .host v).undriveResult

/-- The host reads the cell between operations (R150). -/
def hostRead (s : State) : State := (s.memRead .host).2.undriveResult

/-- The host takes a decoded output: one read of the cell by the decoder, no write (R33, R85 to R87). -/
def takeOutput (output : Byte → Event) (s : State) : State :=
  let (r, s1) := s.memRead .block
  (s1.record (output r)).undriveResult

end State

/-- The refusal of a presentation that breaks a duty of the host (R150). -/
def Refusal.ofDuty : BrokenDuty → Refusal
  | .shortBuffer => .shortBuffer
  | .setStateOperand arg => .setStateOperand arg
  | .reservedCommand cmd => .reservedCommand cmd

end Sys2Proof.Machine
end

