-- ==== Sys2Proof/Machine/MessageDispatcher.lean ====
section
/-! DEFINITION. The meanings of the three message opcodes on their success path (R102 to R104). The length check and
the four errors come before, in the decoder (R106) and in Machine/Presentation.lean. -/

namespace Sys2Proof.Machine

/-- ON: `set_state(on)`, then Success (R102). -/
def execOn (s : State) : Host.Outcome State Fault Refusal := .next (s.setStateField 1).returnSuccess

/-- OFF: `set_state(off)`, then Success (R103). -/
def execOff (s : State) : Host.Outcome State Fault Refusal := .next (s.setStateField 0).returnSuccess

/-- LED_SETTINGS: `set_color(color)`, then `set_brightness(brightness)`, then Success; State is kept and the cell is
written twice (R104, R35). The operands go in zero-extended (R54). -/
def execLedSettings (color : ColorBits) (brightness : BrightnessBits) (s : State) : Host.Outcome State Fault Refusal :=
  .next ((s.setColorField (zext8 color)).setBrightnessField (zext8 brightness)).returnSuccess

end Sys2Proof.Machine
end

