-- ==== Sys2Proof/Machine/RegisterModel.lean ====
section
/-! DEFINITION. The meanings of the twelve commands of the Register Model (R72 to R83). Each makes the accesses of
its base operation and produces no Result (R70); none can fail. -/

namespace Sys2Proof.Machine

/-- CLEAR (R72). -/
def execClear (s : State) : Host.Outcome State Fault Refusal := .next s.clearRegister.undriveResult

/-- INIT: the state change and the accesses of CLEAR (R73). -/
def execInit (s : State) : Host.Outcome State Fault Refusal := .next s.clearRegister.undriveResult

/-- SET_STATE (R74). -/
def execSetState (on : StateBits) (s : State) : Host.Outcome State Fault Refusal :=
  .next (s.setStateField on).undriveResult

/-- SET_COLOR (R75). -/
def execSetColor (bits : Byte) (s : State) : Host.Outcome State Fault Refusal :=
  .next (s.setColorField bits).undriveResult

/-- SET_BRIGHTNESS (R76). -/
def execSetBrightness (value : Byte) (s : State) : Host.Outcome State Fault Refusal :=
  .next (s.setBrightnessField value).undriveResult

/-- STATE_ON: exactly `SET_STATE 1` (R77). -/
def execStateOn (s : State) : Host.Outcome State Fault Refusal := .next (s.setStateField 1).undriveResult

/-- STATE_OFF: exactly `SET_STATE 0` (R78). -/
def execStateOff (s : State) : Host.Outcome State Fault Refusal := .next (s.setStateField 0).undriveResult

/-- COLOR_RED: exactly `SET_COLOR 0x01` (R79). -/
def execColorRed (s : State) : Host.Outcome State Fault Refusal :=
  .next (s.setColorField Const.colorRed).undriveResult

/-- COLOR_GREEN: exactly `SET_COLOR 0x02` (R80). -/
def execColorGreen (s : State) : Host.Outcome State Fault Refusal :=
  .next (s.setColorField Const.colorGreen).undriveResult

/-- COLOR_BLUE: exactly `SET_COLOR 0x04` (R81). -/
def execColorBlue (s : State) : Host.Outcome State Fault Refusal :=
  .next (s.setColorField Const.colorBlue).undriveResult

/-- BRIGHTNESS_MIN: exactly `SET_BRIGHTNESS 0x00` (R82, D8; log 12). -/
def execBrightnessMin (s : State) : Host.Outcome State Fault Refusal :=
  .next (s.setBrightnessField Const.brightnessMin).undriveResult

/-- BRIGHTNESS_MAX: exactly `SET_BRIGHTNESS 0x0F` (R83, D8; log 12). -/
def execBrightnessMax (s : State) : Host.Outcome State Fault Refusal :=
  .next (s.setBrightnessField Const.brightnessMax).undriveResult

end Sys2Proof.Machine
end

