-- ==== Sys2Proof/Machine/Dispatch.lean ====
section
/-! DEFINITION. One arm per instruction: each is one direct call of its meaning. -/

namespace Sys2Proof.Machine

def exec (i : Instr) (s : State) : Host.Outcome State Fault Refusal :=
  match i with
  | .on => Sys2Proof.Machine.execOn s
  | .off => Sys2Proof.Machine.execOff s
  | .ledSettings color brightness => Sys2Proof.Machine.execLedSettings color brightness s
  | .clear => Sys2Proof.Machine.execClear s
  | .init => Sys2Proof.Machine.execInit s
  | .setState on => Sys2Proof.Machine.execSetState on s
  | .setColor bits => Sys2Proof.Machine.execSetColor bits s
  | .setBrightness value => Sys2Proof.Machine.execSetBrightness value s
  | .stateOn => Sys2Proof.Machine.execStateOn s
  | .stateOff => Sys2Proof.Machine.execStateOff s
  | .colorRed => Sys2Proof.Machine.execColorRed s
  | .colorGreen => Sys2Proof.Machine.execColorGreen s
  | .colorBlue => Sys2Proof.Machine.execColorBlue s
  | .brightnessMin => Sys2Proof.Machine.execBrightnessMin s
  | .brightnessMax => Sys2Proof.Machine.execBrightnessMax s

end Sys2Proof.Machine
end

