-- ==== Sys2Proof/Machine/Presentation.lean ====
section
/-! DEFINITION. What the machine does with one move of the host: present an operation (R21, R100), reset (R140), or
the host's own accesses between operations (R150). -/

namespace Sys2Proof.Machine

/-- One operation, from presentation to completion (R100, R145): the buffer reads, then the instruction's meaning, or
the error, or the refusal. -/
def performOperation (o : Operation) (s : State) : Host.Outcome State Fault Refusal :=
  match decode o with
  | .instr i => exec i (s.fetchOperands o)
  | .error kind => .next ((s.fetchOperands o).raise kind)
  | .refused duty => .refused (Refusal.ofDuty duty)

/-- One move of the host (R150, R152). -/
def performMove (m : HostMove) (s : State) : Host.Outcome State Fault Refusal :=
  match m with
  | .reset => .next s.resetEvent
  | .operation o => performOperation o s
  | .writeCell v => .next (s.hostWrite v)
  | .readCell => .next s.hostRead
  | .readStateOut => .next (s.takeOutput fun r => .stateOut (getState r))
  | .readColorOut => .next (s.takeOutput fun r => .colorOut (getColor r))
  | .readBrightnessOut => .next (s.takeOutput fun r => .brightnessOut (getBrightness r))

/-- The machine with no move left: it "does nothing further" (R152; log 2). -/
def idle (s : State) : Host.Outcome State Fault Refusal := .next s

/-- `s` with an operation placed before every other move of the host. -/
def State.present (o : Operation) (s : State) : State := s.setPending (.operation o :: s.pending)

end Sys2Proof.Machine
end

