-- ==== Sys2Proof/Machine/Step.lean ====
section
/-! DEFINITION. The step: the host's next move, taken off the list and performed (R145, R152). The block fetches
nothing (R16): a program is a list of moves that the host presents (log 1). -/

namespace Sys2Proof.Machine

/-- One step. -/
def step (s : State) : Host.Outcome State Fault Refusal :=
  match s.pending with
  | [] => idle s
  | m :: ms => performMove m (s.setPending ms)

/-- `s` with the table word's operation as the host's very next move, before the moves it already had. A number that
fills no row's format places nothing (logs 1, 3). -/
def State.withFetchWord (s : State) (nbits w : Nat) : State :=
  match tableOperation nbits w with
  | some o => s.present o
  | none => s

end Sys2Proof.Machine
end

