-- ==== Sys2Proof/Laws/State.lean ====
section
/-! SUPPORT. One lemma per field per update of State. -/

namespace Sys2Proof.Machine.State

variable (s : State) (v : Byte) (ms : List HostMove) (r : Option Result) (e : Event)

@[simp] theorem setLedreg_ledreg : (s.setLedreg v).ledreg = v := rfl
@[simp] theorem setLedreg_pending : (s.setLedreg v).pending = s.pending := rfl
@[simp] theorem setLedreg_result : (s.setLedreg v).result = s.result := rfl
@[simp] theorem setLedreg_trace : (s.setLedreg v).trace = s.trace := rfl
@[simp] theorem setLedreg_draws : (s.setLedreg v).draws = s.draws := rfl

@[simp] theorem setPending_ledreg : (s.setPending ms).ledreg = s.ledreg := rfl
@[simp] theorem setPending_pending : (s.setPending ms).pending = ms := rfl
@[simp] theorem setPending_result : (s.setPending ms).result = s.result := rfl
@[simp] theorem setPending_trace : (s.setPending ms).trace = s.trace := rfl
@[simp] theorem setPending_draws : (s.setPending ms).draws = s.draws := rfl

@[simp] theorem setResult_ledreg : (s.setResult r).ledreg = s.ledreg := rfl
@[simp] theorem setResult_pending : (s.setResult r).pending = s.pending := rfl
@[simp] theorem setResult_result : (s.setResult r).result = r := rfl
@[simp] theorem setResult_trace : (s.setResult r).trace = s.trace := rfl
@[simp] theorem setResult_draws : (s.setResult r).draws = s.draws := rfl

@[simp] theorem record_ledreg : (s.record e).ledreg = s.ledreg := rfl
@[simp] theorem record_pending : (s.record e).pending = s.pending := rfl
@[simp] theorem record_result : (s.record e).result = s.result := rfl
@[simp] theorem record_trace : (s.record e).trace = s.trace ++ [e] := rfl
@[simp] theorem record_draws : (s.record e).draws = s.draws := rfl

@[simp] theorem draw_ledreg : s.draw.ledreg = s.ledreg := rfl
@[simp] theorem draw_pending : s.draw.pending = s.pending := rfl
@[simp] theorem draw_result : s.draw.result = s.result := rfl
@[simp] theorem draw_trace : s.draw.trace = s.trace := rfl
@[simp] theorem draw_draws : s.draw.draws = s.draws + 1 := rfl

end Sys2Proof.Machine.State
end

