-- ==== Sys2Proof/Laws/Ops.lean ====
section
/-! SUPPORT. One spec lemma per shared operation: the whole state it gives, as a record. Later proofs cite these and
unfold no operation. -/

namespace Sys2Proof.Machine.State

variable (s : State)

theorem memRead_eq (who : Agent) :
    s.memRead who = (s.ledreg, { s with trace := s.trace ++ [.cellRead who s.ledreg] }) := rfl

theorem memWrite_eq (who : Agent) (v : Byte) :
    s.memWrite who v = { s with ledreg := v, trace := s.trace ++ [.cellWrite who v] } := rfl

theorem readModifyWrite_eq (f : Byte → Byte) :
    s.readModifyWrite f = { s with
      ledreg := f s.ledreg
      trace := s.trace ++ [.cellRead .block s.ledreg, .cellWrite .block (f s.ledreg)] } := by
  simp [readModifyWrite, memRead, memWrite, record, setLedreg]

theorem clearRegister_eq :
    s.clearRegister = { s with ledreg := 0, trace := s.trace ++ [.cellWrite .block 0] } := rfl

theorem setStateField_eq (on : StateBits) :
    s.setStateField on = { s with
      ledreg := stateMerged on s.ledreg
      trace := s.trace ++ [.cellRead .block s.ledreg, .cellWrite .block (stateMerged on s.ledreg)] } :=
  s.readModifyWrite_eq _

theorem setColorField_eq (bits : Byte) :
    s.setColorField bits = { s with
      ledreg := colorMerged bits s.ledreg
      trace := s.trace ++ [.cellRead .block s.ledreg, .cellWrite .block (colorMerged bits s.ledreg)] } :=
  s.readModifyWrite_eq _

theorem setBrightnessField_eq (value : Byte) :
    s.setBrightnessField value = { s with
      ledreg := brightnessMerged value s.ledreg
      trace := s.trace ++
        [.cellRead .block s.ledreg, .cellWrite .block (brightnessMerged value s.ledreg)] } :=
  s.readModifyWrite_eq _

theorem driveResult_eq (r : Result) :
    s.driveResult r = { s with result := some r, trace := s.trace ++ [.result r] } := rfl

theorem undriveResult_eq : s.undriveResult = { s with result := none, draws := s.draws + 1 } := rfl

theorem raise_eq (kind : ErrorKind) :
    s.raise kind = { s with result := some (.error kind), trace := s.trace ++ [.result (.error kind)] } := rfl

theorem returnSuccess_eq :
    s.returnSuccess = { s with result := some .success, trace := s.trace ++ [.result .success] } := rfl

/-- Reading a byte that is there changes nothing but the record. -/
theorem bufRead_eq {buf : List Byte} {i : Nat} {v : Byte} (h : buf[i]? = some v) :
    s.bufRead buf i = { s with trace := s.trace ++ [.bufRead i v] } := by simp [bufRead, h, record]

/-- The record of the buffer reads of a transaction. -/
def bufferEvents (length : Byte) (buf : List Byte) : List Event :=
  (bufferOffsets length buf).filterMap fun i => buf[i]?.map (Event.bufRead i)

/-- Reading the buffer changes nothing but the record. -/
theorem readBuffer_eq (length : Byte) (buf : List Byte) :
    s.readBuffer length buf = { s with trace := s.trace ++ bufferEvents length buf } := by
  unfold readBuffer bufferEvents
  induction bufferOffsets length buf generalizing s with
  | nil => simp
  | cons i is ih =>
    rw [List.foldl_cons, ih]
    cases h : buf[i]? <;> simp [bufRead, h]

theorem resetEvent_eq :
    s.resetEvent = { s with
      ledreg := 0, result := none, trace := s.trace ++ [.cellWrite .block 0], draws := s.draws + 1 } := rfl

theorem hostWrite_eq (v : Byte) :
    s.hostWrite v = { s with
      ledreg := v, result := none, trace := s.trace ++ [.cellWrite .host v], draws := s.draws + 1 } := rfl

theorem hostRead_eq :
    s.hostRead = { s with
      result := none, trace := s.trace ++ [.cellRead .host s.ledreg], draws := s.draws + 1 } := rfl

theorem takeOutput_eq (output : Byte → Event) :
    s.takeOutput output = { s with
      result := none
      trace := s.trace ++ [.cellRead .block s.ledreg, output s.ledreg]
      draws := s.draws + 1 } := by
  simp [takeOutput, memRead, record, undriveResult, setResult, draw]

/-- An operation's fetch changes nothing but the record. -/
theorem fetchOperands_eq (o : Operation) :
    ∃ es : List Event, s.fetchOperands o = { s with trace := s.trace ++ es } ∧
      ∀ e ∈ es, ∃ i v, e = .bufRead i v := by
  cases o with
  | command cmd arg => exact ⟨[], by simp [fetchOperands], by simp⟩
  | message length buf =>
    refine ⟨bufferEvents length buf, s.readBuffer_eq length buf, fun e he => ?_⟩
    obtain ⟨i, -, hi⟩ := List.mem_filterMap.mp he
    obtain ⟨v, -, rfl⟩ := Option.map_eq_some_iff.mp hi
    exact ⟨i, v, rfl⟩

end Sys2Proof.Machine.State
end

