-- ==== Sys2Proof/Safety.lean ====
section
/-! DEFINITION. What counts as a safe run, and the observations and invariants that claims are stated in. -/

namespace Sys2Proof.Machine

/-! The observation of a run (R152), read off the record. -/

/-- The value an event writes to the cell, if it is a write (R32). -/
def Event.written? : Event → Option Byte
  | .cellWrite _ v => some v
  | .cellRead _ _ | .bufRead _ _ | .result _ | .stateOut _ | .colorOut _ | .brightnessOut _ => none

/-- The value an event reads from the cell, if it is a read (R31). -/
def Event.readValue? : Event → Option Byte
  | .cellRead _ v => some v
  | .cellWrite _ _ | .bufRead _ _ | .result _ | .stateOut _ | .colorOut _ | .brightnessOut _ => none

/-- The Result an event delivers, if it is one (R120). -/
def Event.result? : Event → Option Result
  | .result r => some r
  | .cellRead _ _ | .cellWrite _ _ | .bufRead _ _ | .stateOut _ | .colorOut _ | .brightnessOut _ => none

/-- Whether the event is an access to the cell (R33). -/
def Event.isCell : Event → Bool
  | .cellRead _ _ | .cellWrite _ _ => true
  | .bufRead _ _ | .result _ | .stateOut _ | .colorOut _ | .brightnessOut _ => false

/-- The offset an event reads in the message buffer, if it does (R37). -/
def Event.offset? : Event → Option Nat
  | .bufRead offset _ => some offset
  | .cellRead _ _ | .cellWrite _ _ | .result _ | .stateOut _ | .colorOut _ | .brightnessOut _ => none

/-- The ordered trace of cell writes (R152). -/
def cellWrites (es : List Event) : List Byte := es.filterMap Event.written?

/-- The values read from the cell, in order (R33). -/
def cellReads (es : List Event) : List Byte := es.filterMap Event.readValue?

/-- The list of Results, in order (R152). -/
def results (es : List Event) : List Result := es.filterMap Event.result?

/-- The accesses to the cell, in order (R33). -/
def cellAccesses (es : List Event) : List Event := es.filter Event.isCell

/-- The offsets of the message buffer that were read, in order (R37). -/
def offsetsRead (es : List Event) : List Nat := es.filterMap Event.offset?

/-! Invariants. -/

/-- The record replayed against a cell that holds `cell`: every read must return the value most recently written (R31,
R43 c). The value the cell ends with, or none where a read does not agree. -/
def replay (cell : Byte) : List Event → Option Byte
  | [] => some cell
  | .cellWrite _ v :: es => replay v es
  | .cellRead _ v :: es => if v = cell then replay cell es else none
  | .bufRead _ _ :: es => replay cell es
  | .result _ :: es => replay cell es
  | .stateOut v :: es => if v = getState cell then replay cell es else none
  | .colorOut v :: es => if v = getColor cell then replay cell es else none
  | .brightnessOut v :: es => if v = getBrightness cell then replay cell es else none

/-- The record explains the register: from some power-up value, every read so far returned the value most recently
written, every decoded output was a field of it, and the last value written is the one LEDREG holds (R31, R43). -/
def State.Coherent (s : State) : Prop :=
  ∃ powerUp : Byte, replay powerUp s.trace = some s.ledreg

/-- The RESULT output is driven exactly while the last thing recorded is the end of a transaction, and shows that
transaction's Result (R17, R21, R120). -/
def State.ResultShown (s : State) : Prop :=
  ∀ r : Result, s.result = some r ↔ s.trace.getLast? = some (.result r)

/-! A safe run: the host keeps its duties. -/

/-- The host keeps the duties of R150 in one move. -/
def HostMove.dutiful : HostMove → Bool
  | .operation o => o.wellFormed
  | .reset | .writeCell _ | .readCell | .readStateOut | .readColorOut | .readBrightnessOut => true

/-- The host keeps the duties of R150 in every move it has still to make. -/
def State.dutiful (s : State) : Bool := s.pending.all HostMove.dutiful

end Sys2Proof.Machine
end

