-- ==== Sys2Proof/Certificates/Slice0/Obligations.lean ====
section
/-! DEFINITION. The statements for the provers, from the numbered rules of spec/. Where a statement speaks of the
record (`trace`), of `pending` or of `draws`, it speaks of fields the model adds to LEDREG (logs 1, 4, 14, 15);
its docstring names the spec's own decision (D<n>) where it rests on one. -/

open Sys2Proof Sys2Proof.Machine

namespace Sys2Proof.Claims

/-- The moves that stand first in `s`: a message, then the rest. -/
def Presents (s : State) (length : Byte) (buf : List Byte) (rest : List HostMove) : Prop :=
  s.pending = .operation (.message length buf) :: rest

/-- The state after a setter that writes `new`: one read, one write, no Result (R33, R70). -/
def afterSetter (s : State) (new : Byte) : State :=
  { s with
    ledreg := new
    result := none
    trace := s.trace ++ [.cellRead .block s.ledreg, .cellWrite .block new]
    draws := s.draws + 1 }

/-- The state after CLEAR or INIT: one write, no read, no Result (R33, R70). -/
def afterClear (s : State) : State :=
  { s with
    ledreg := 0x00
    result := none
    trace := s.trace ++ [.cellWrite .block 0x00]
    draws := s.draws + 1 }

/-- A message ends in an error (R106, R126): RESULT shows it, the bytes at `offsets` were read, the cell was not accessed,
and nothing else changed. -/
def EndsInError (s : State) (rest : List HostMove) (kind : ErrorKind) (offsets : List Nat) : Prop :=
  ∃ es : List Event,
    step s = .next { s with
      pending := rest
      result := some (.error kind)
      trace := s.trace ++ es } ∧
    offsetsRead es = offsets ∧ cellAccesses es = [] ∧ results es = [.error kind]

/-- An outcome is Success (R101, R120): LEDREG holds `new`, RESULT shows Success, the bytes at `offsets` were read, the cell
was accessed as `accesses` says, and nothing else changed. -/
def Succeeds (outcome : Host.Outcome State Fault Refusal) (s : State) (rest : List HostMove) (new : Byte)
    (offsets : List Nat) (accesses : List Event) : Prop :=
  ∃ es : List Event,
    outcome = .next { s with
      ledreg := new
      pending := rest
      result := some .success
      trace := s.trace ++ es } ∧
    offsetsRead es = offsets ∧ cellAccesses es = accesses ∧ results es = [.success]

/-- What a one-byte opcode does (R102, R103): its meaning, its message of length 1, and TrailingBytes beyond it. -/
def OneByteMessage (op : Byte) (i : Instr) (new : Byte → Byte) : Prop :=
  (∀ s : State, Succeeds (exec i s) s s.pending (new s.ledreg) []
    [.cellRead .block s.ledreg, .cellWrite .block (new s.ledreg)]) ∧
  (∀ (s : State) (params : List Byte) (rest : List HostMove), Presents s 1 (op :: params) rest →
    Succeeds (step s) s rest (new s.ledreg) [0]
      [.cellRead .block s.ledreg, .cellWrite .block (new s.ledreg)]) ∧
  (∀ (s : State) (length : Byte) (params : List Byte) (rest : List HostMove),
    Presents s length (op :: params) rest → length.toNat ≤ params.length + 1 → 2 ≤ length.toNat →
      EndsInError s rest .trailingBytes [0])

/-- R100's algorithm, line by line, over the block's operations. -/
def processMessage (length : Byte) (buf : List Byte) (s : State) : State :=
  if length.toNat = 0 then s.raise .empty
  else
    let op := buf.getD 0 0
    let s := s.bufRead buf 0
    if op = 0x00 then
      if 1 < length.toNat then s.raise .trailingBytes
      else (s.setStateField 1).returnSuccess
    else if op = 0x01 then
      if 1 < length.toNat then s.raise .trailingBytes
      else (s.setStateField 0).returnSuccess
    else if op = 0x02 then
      if length.toNat < 3 then s.raise .missingParameters
      else if 3 < length.toNat then s.raise .trailingBytes
      else
        let color := buf.getD 1 0 &&& 0x07
        let s := s.bufRead buf 1
        let brightness := buf.getD 2 0 &&& 0x0F
        let s := s.bufRead buf 2
        ((s.setColorField color).setBrightnessField brightness).returnSuccess
    else s.raise .invalidOpCode

/-- The Result of a message by the order of R125, from its length and its first byte. -/
def resultByPriority (length op : Nat) : Result :=
  if length = 0 then .error .empty
  else if 3 ≤ op then .error .invalidOpCode
  else if op = 2 ∧ length < 3 then .error .missingParameters
  else if (op < 2 ∧ 1 < length) ∨ (op = 2 ∧ 3 < length) then .error .trailingBytes
  else .success

/-- The bits of LEDREG an instruction may change (R71): its field, or all of them for CLEAR and INIT. -/
def fieldMask : Instr → Byte
  | .on | .off | .setState _ | .stateOn | .stateOff => 0x01
  | .setColor _ | .colorRed | .colorGreen | .colorBlue => 0x0E
  | .setBrightness _ | .brightnessMin | .brightnessMax => 0xF0
  | .ledSettings _ _ => 0xFE
  | .clear | .init => 0xFF

/-- R33's table, a read as false and a write as true. -/
def accessKinds : Instr → List Bool
  | .clear | .init => [true]
  | .setState _ | .stateOn | .stateOff | .setColor _ | .colorRed | .colorGreen | .colorBlue
  | .setBrightness _ | .brightnessMin | .brightnessMax | .on | .off => [false, true]
  | .ledSettings _ _ => [false, true, false, true]

/-- Whether an instruction is a message (R102 to R104) and not a command. -/
def isMessage : Instr → Bool
  | .on | .off | .ledSettings _ _ => true
  | .setState _ | .stateOn | .stateOff | .setColor _ | .colorRed | .colorGreen | .colorBlue
  | .setBrightness _ | .brightnessMin | .brightnessMax | .clear | .init => false

/-- An operation with the bits that have no effect set to 0, and no byte beyond the length (R53, R57, R60). -/
def withoutIgnoredBits : Operation → Operation
  | .command cmd arg =>
    if cmd = 0x2 ∨ cmd = 0x3 ∨ cmd = 0x4 then .command cmd arg else .command cmd 0
  | .message length buf =>
    match buf.take length.toNat with
    | [op, c, b] => .message length [op, c &&& 0x07, b &&& 0x0F]
    | bytes => .message length bytes

/-- Whether a move presents a message. -/
def movesMessage : HostMove → Bool
  | .operation (.message _ _) => true
  | .operation (.command _ _) | .reset | .writeCell _ | .readCell | .readStateOut | .readColorOut
  | .readBrightnessOut => false

end Sys2Proof.Claims

open Sys2Proof.Claims

/-! ### Encodings -/

/-- R50 to R64: decoding the encoding of any instruction gives it back, at every value of every operand, as it is
presented on a port and as the opcode table numbers it. -/
def Obligations.DecodeOfEncodeIsTheInstruction : Prop :=
  ∀ i : Instr,
    decode (encode i) = .instr i ∧
      decodeTableWord (encode i).tableBits (encode i).tableWord = some i

/-- R53, R57, R60, R61: whatever decodes to an instruction is that instruction's encoding, but for the bits that
the spec says are ignored; so no reserved encoding decodes. -/
def Obligations.OnlyIgnoredBitsAreLostInDecoding : Prop :=
  ∀ (o : Operation) (i : Instr), decode o = .instr i → encode i = withoutIgnoredBits o

/-- R52, R53, R60 with R64's numbering: words written out bit by bit. A sanity statement. -/
def Obligations.WrittenOutWordsDecode : Prop :=
  decodeTableWord 8 0b00000000 = some .on ∧
  decodeTableWord 8 0b00000001 = some .off ∧
  decodeTableWord 24 0b000000100000001000000101 = some (.ledSettings 2 5) ∧
  decodeTableWord 24 0b000000101111101000110101 = some (.ledSettings 2 5) ∧
  decodeTableWord 16 0b000000000000 = some .clear ∧
  decodeTableWord 16 0b001000000001 = some (.setState 1) ∧
  decodeTableWord 16 0b001100001010 = some (.setColor 0x0A) ∧
  decodeTableWord 16 0b010000011111 = some (.setBrightness 0x1F) ∧
  decodeTableWord 16 0b101100000000 = some .brightnessMax ∧
  decodeTableWord 16 0b110000000000 = none ∧
  decodeTableWord 16 0b001000000010 = none ∧
  decodeTableWord 8 0b00000011 = none

/-- R147, R61, R150 (U2, U4, U5): a presented operation is refused exactly when it breaks a duty of the host; every
other one runs to a next state. -/
def Obligations.RefusedExactlyWhenADutyIsBroken : Prop :=
  ∀ (s : State) (o : Operation) (rest : List HostMove), s.pending = .operation o :: rest →
    ((∃ r, step s = .refused r) ↔ o.wellFormed = false) ∧
    ((∃ t, step s = .next t) ↔ o.wellFormed = true)

/-- R61, R147: which duty is broken is what the refusal names. The codes 0xC to 0xF and SET_STATE's operand are the
spec's decisions D5 and D7, the short buffer is D13. -/
def Obligations.RefusalsNameTheBrokenDuty : Prop :=
  ∀ (s : State) (rest : List HostMove),
    (∀ (cmd : BitVec 4) (arg : Byte), s.pending = .operation (.command cmd arg) :: rest → 12 ≤ cmd.toNat →
      step s = .refused (.reservedCommand cmd)) ∧
    (∀ arg : Byte, s.pending = .operation (.command 0x2 arg) :: rest → 2 ≤ arg.toNat →
      step s = .refused (.setStateOperand arg)) ∧
    (∀ (length : Byte) (buf : List Byte), Presents s length buf rest → buf.length < length.toNat →
      step s = .refused .shortBuffer)

/-! ### The step -/

/-- R16, R145: when the host's next move presents an operation that decodes to an instruction, the step is that
instruction's meaning, at the state with the move taken off the list and with the buffer reads recorded. What a
step does around exec is the model's form (logs 1, 15). -/
def Obligations.StepRunsTheDecodedInstruction : Prop :=
  ∀ (s : State) (o : Operation) (i : Instr) (rest : List HostMove),
    s.pending = .operation o :: rest → decode o = .instr i →
      ∃ reads : List Event,
        step s = exec i { s with pending := rest, trace := s.trace ++ reads } ∧
        ∀ e ∈ reads, ∃ offset v, e = .bufRead offset v

/-- Placing a table word makes the very next step run the instruction it decodes to, from any state, and the moves the
host had are still to come (model's interface, logs 1, 3). -/
def Obligations.PlacedWordRunsNext : Prop :=
  ∀ (s : State) (nbits w : Nat) (i : Instr), decodeTableWord nbits w = some i →
    ∃ reads : List Event,
      step (s.withFetchWord nbits w) = exec i { s with trace := s.trace ++ reads } ∧
      ∀ e ∈ reads, ∃ offset v, e = .bufRead offset v

/-- R152: with no move left the machine does nothing further (the idle step is the model's form, log 2). -/
def Obligations.NoMoveLeftChangesNothing : Prop :=
  ∀ s : State, s.pending = [] → step s = .next s

/-! ### Commands of the Register Model -/

/-- R7: the masked merge, as a formula and bit by bit. -/
def Obligations.MaskedMergeBitByBit : Prop :=
  ∀ old mask v : Byte,
    merge old mask v = (old &&& ~~~mask) ||| (v &&& mask) ∧
    ∀ n : Nat, n < 8 →
      (mask.getLsbD n = false → (merge old mask v).getLsbD n = old.getLsbD n) ∧
      (mask.getLsbD n = true → (merge old mask v).getLsbD n = v.getLsbD n)

/-- R72, R73: CLEAR (code 0x0, any ARG) and INIT (code 0x1, any ARG) write 0x00 with one access and no read, whatever
the register held, and change nothing else. Codes: D5; access counts: D4; `draws` is the model's (log 4). -/
def Obligations.ClearAndInitWriteZero : Prop :=
  ∀ (s : State) (arg : Byte),
    decode (.command 0x0 arg) = .instr .clear ∧ exec .clear s = .next (afterClear s) ∧
    decode (.command 0x1 arg) = .instr .init ∧ exec .init s = .next (afterClear s)

/-- R74: SET_STATE merges its one bit into bit 0 only. Code: D5; operand: D7; access counts: D4. -/
def Obligations.SetStateReplacesBitZero : Prop :=
  ∀ (s : State) (on : BitVec 1),
    decode (.command 0x2 (zext8 on)) = .instr (.setState on) ∧
    exec (.setState on) s = .next (afterSetter s ((s.ledreg &&& 0xFE) ||| zext8 on))

/-- R75: SET_COLOR masks its operand to 3 bits and replaces bits 3:1. Code: D5; access counts: D4. -/
def Obligations.SetColorReplacesColor : Prop :=
  ∀ (s : State) (bits : Byte),
    decode (.command 0x3 bits) = .instr (.setColor bits) ∧
    exec (.setColor bits) s = .next (afterSetter s ((s.ledreg &&& 0xF1) ||| ((bits &&& 0x07) <<< 1)))

/-- R76: SET_BRIGHTNESS masks its operand to 4 bits and replaces bits 7:4. Code: D5; access counts: D4. -/
def Obligations.SetBrightnessReplacesBrightness : Prop :=
  ∀ (s : State) (value : Byte),
    decode (.command 0x4 value) = .instr (.setBrightness value) ∧
    exec (.setBrightness value) s =
      .next (afterSetter s ((s.ledreg &&& 0x0F) ||| ((value &&& 0x0F) <<< 4)))

/-- R77, R78: STATE_ON is exactly SET_STATE 1 and STATE_OFF exactly SET_STATE 0, whatever ARG is. Codes: D5. -/
def Obligations.StateWrappersAreSetState : Prop :=
  ∀ (s : State) (arg : Byte),
    decode (.command 0x5 arg) = .instr .stateOn ∧ exec .stateOn s = exec (.setState 1) s ∧
    exec .stateOn s = .next (afterSetter s ((s.ledreg &&& 0xFE) ||| 0x01)) ∧
    decode (.command 0x6 arg) = .instr .stateOff ∧ exec .stateOff s = exec (.setState 0) s ∧
    exec .stateOff s = .next (afterSetter s (s.ledreg &&& 0xFE))

/-- R79 to R81: the colour wrappers are SET_COLOR 1, 2 and 4: the named colour's bit is set and the other two are
cleared, whatever ARG is. Codes: D5. -/
def Obligations.ColorWrappersAreSetColor : Prop :=
  ∀ (s : State) (arg : Byte),
    decode (.command 0x7 arg) = .instr .colorRed ∧ exec .colorRed s = exec (.setColor 0x01) s ∧
    exec .colorRed s = .next (afterSetter s ((s.ledreg &&& 0xF1) ||| 0x02)) ∧
    decode (.command 0x8 arg) = .instr .colorGreen ∧ exec .colorGreen s = exec (.setColor 0x02) s ∧
    exec .colorGreen s = .next (afterSetter s ((s.ledreg &&& 0xF1) ||| 0x04)) ∧
    decode (.command 0x9 arg) = .instr .colorBlue ∧ exec .colorBlue s = exec (.setColor 0x04) s ∧
    exec .colorBlue s = .next (afterSetter s ((s.ledreg &&& 0xF1) ||| 0x08))

/-- R82, R83: the brightness wrappers are SET_BRIGHTNESS 0 and 15, whatever ARG is. The constants 0 and 15 are the
spec's decision D8 (log 12), the codes D5. -/
def Obligations.BrightnessWrappersAreSetBrightness : Prop :=
  ∀ (s : State) (arg : Byte),
    decode (.command 0xA arg) = .instr .brightnessMin ∧
    exec .brightnessMin s = exec (.setBrightness 0x00) s ∧
    exec .brightnessMin s = .next (afterSetter s (s.ledreg &&& 0x0F)) ∧
    decode (.command 0xB arg) = .instr .brightnessMax ∧
    exec .brightnessMax s = exec (.setBrightness 0x0F) s ∧
    exec .brightnessMax s = .next (afterSetter s ((s.ledreg &&& 0x0F) ||| 0xF0))

/-- R70: every command completes, drives no RESULT, delivers no Result, and makes at most one read and exactly one
write of the cell. -/
def Obligations.CommandsProduceNoResult : Prop :=
  ∀ (i : Instr) (s : State), isMessage i = false →
    ∃ (t : State) (es : List Event),
      exec i s = .next t ∧ t.trace = s.trace ++ es ∧ t.result = none ∧ results es = [] ∧
      (cellReads es).length ≤ 1 ∧ (cellWrites es).length = 1

/-- R33, R107, R145: every instruction completes, leaves the host's moves alone, and makes exactly the accesses to the
cell that R33's table lists, all by the block. The counts are the spec's decision D4 (log 8). -/
def Obligations.EveryInstructionMakesItsAccesses : Prop :=
  ∀ (i : Instr) (s : State),
    ∃ (t : State) (es : List Event),
      exec i s = .next t ∧ t.pending = s.pending ∧ t.trace = s.trace ++ es ∧
      (cellAccesses es).map (fun e => e.written?.isSome) = accessKinds i ∧
      ∀ e ∈ cellAccesses es, ∃ v, e = .cellRead .block v ∨ e = .cellWrite .block v

/-- R71: every instruction completes and leaves the bits of LEDREG outside its own field as they were; only CLEAR, INIT
and the reset event write all of the register without reading it. -/
def Obligations.BitsOutsideTheFieldSurvive : Prop :=
  ∀ (i : Instr) (s : State),
    (∃ (t : State) (es : List Event), exec i s = .next t ∧
      t.ledreg &&& ~~~(fieldMask i) = s.ledreg &&& ~~~(fieldMask i) ∧
      t.trace = s.trace ++ es ∧ (cellReads es = [] ↔ i = .clear ∨ i = .init)) ∧
    (∀ rest : List HostMove, s.pending = .reset :: rest →
      ∃ (t : State) (es : List Event), step s = .next t ∧ t.ledreg = 0x00 ∧
        t.trace = s.trace ++ es ∧ cellReads es = [])

/-- R84 to R88: the fields of a register value determine it and any three field values occur; and the setters and
LED_SETTINGS in these terms. The getters' form is the spec's decision D11. -/
def Obligations.SettersInFieldTerms : Prop :=
  (∀ r : Byte, encodeFields (getState r) (getColor r) (getBrightness r) = r) ∧
  (∀ (x : BitVec 1) (c : BitVec 3) (b : BitVec 4),
    getState (encodeFields x c b) = x ∧ getColor (encodeFields x c b) = c ∧
    getBrightness (encodeFields x c b) = b) ∧
  ∀ s : State,
    (∀ on : BitVec 1, ∃ t, exec (.setState on) s = .next t ∧
      t.ledreg = encodeFields on (getColor s.ledreg) (getBrightness s.ledreg)) ∧
    (∀ bits : Byte, ∃ t, exec (.setColor bits) s = .next t ∧
      t.ledreg = encodeFields (getState s.ledreg) (bits.setWidth 3) (getBrightness s.ledreg)) ∧
    (∀ value : Byte, ∃ t, exec (.setBrightness value) s = .next t ∧
      t.ledreg = encodeFields (getState s.ledreg) (getColor s.ledreg) (value.setWidth 4)) ∧
    (∀ (c : BitVec 3) (b : BitVec 4), ∃ t, exec (.ledSettings c b) s = .next t ∧
      t.ledreg = encodeFields (getState s.ledreg) c b)

/-- R89: instructions that write different fields commute; of two that write the same field the later wins; one
applied twice is one applied once. -/
def Obligations.FieldsAreIndependent : Prop :=
  ∀ (i j : Instr) (s : State),
    ∃ ti tj tij tji tii : State,
      exec i s = .next ti ∧ exec j s = .next tj ∧ exec j ti = .next tij ∧ exec i tj = .next tji ∧
      exec i ti = .next tii ∧
      (fieldMask i &&& fieldMask j = 0 → tij.ledreg = tji.ledreg) ∧
      (fieldMask i = fieldMask j → tij.ledreg = tj.ledreg) ∧
      tii.ledreg = ti.ledreg

/-- R90, C1: an operand wider than its field acts modulo 8 or 16; it is not clamped. -/
def Obligations.WideOperandsActModuloTheField : Prop :=
  ∀ (s : State) (v : Byte),
    exec (.setColor v) s = exec (.setColor (BitVec.ofNat 8 (v.toNat % 8))) s ∧
    exec (.setBrightness v) s = exec (.setBrightness (BitVec.ofNat 8 (v.toNat % 16))) s ∧
    ∃ t u : State, exec (.setColor 0x08) s = .next t ∧ getColor t.ledreg = 0 ∧
      exec (.setBrightness 0x10) s = .next u ∧ getBrightness u.ledreg = 0

/-- R14: all 256 values of LEDREG are reachable, from any state, by two messages. -/
def Obligations.EveryRegisterValueIsReachable : Prop :=
  ∀ (s : State) (v : Byte), ∃ (i j : Instr) (t u : State),
    isMessage i = true ∧ isMessage j = true ∧ exec i s = .next t ∧ exec j t = .next u ∧ u.ledreg = v

/-! ### Messages -/

/-- R56: the decode table over (length, first byte), with the result and the effect on LEDREG of every row. -/
def Obligations.MessageOutcomeTable : Prop :=
  ∀ (s : State) (length : Byte) (buf : List Byte) (rest : List HostMove),
    Presents s length buf rest → length.toNat ≤ buf.length →
    ∃ t : State, step s = .next t ∧ t.pending = rest ∧
      (length = 0 → t.result = some (.error .empty) ∧ t.ledreg = s.ledreg) ∧
      ∀ (op : Byte) (params : List Byte), buf = op :: params →
        (length = 1 → op = 0x00 → t.result = some .success ∧ t.ledreg = (s.ledreg &&& 0xFE) ||| 0x01) ∧
        (2 ≤ length.toNat → op = 0x00 → t.result = some (.error .trailingBytes) ∧ t.ledreg = s.ledreg) ∧
        (length = 1 → op = 0x01 → t.result = some .success ∧ t.ledreg = s.ledreg &&& 0xFE) ∧
        (2 ≤ length.toNat → op = 0x01 → t.result = some (.error .trailingBytes) ∧ t.ledreg = s.ledreg) ∧
        (1 ≤ length.toNat → length.toNat ≤ 2 → op = 0x02 →
          t.result = some (.error .missingParameters) ∧ t.ledreg = s.ledreg) ∧
        (∀ (c b : Byte) (more : List Byte), length = 3 → op = 0x02 → params = c :: b :: more →
          t.result = some .success ∧
          t.ledreg = (s.ledreg &&& 0x01) ||| ((c &&& 0x07) <<< 1) ||| ((b &&& 0x0F) <<< 4)) ∧
        (4 ≤ length.toNat → op = 0x02 → t.result = some (.error .trailingBytes) ∧ t.ledreg = s.ledreg) ∧
        (1 ≤ length.toNat → 3 ≤ op.toNat → t.result = some (.error .invalidOpCode) ∧ t.ledreg = s.ledreg)

/-- R100: a supplied message does exactly what the algorithm says, access by access. -/
def Obligations.MessageFollowsTheAlgorithm : Prop :=
  ∀ (s : State) (length : Byte) (buf : List Byte) (rest : List HostMove),
    Presents s length buf rest → length.toNat ≤ buf.length →
      step s = .next (processMessage length buf (s.setPending rest))

/-- R102: ON. -/
def Obligations.OnMessageSetsState : Prop :=
  OneByteMessage 0x00 .on fun old => (old &&& 0xFE) ||| 0x01

/-- R103: OFF. -/
def Obligations.OffMessageClearsState : Prop :=
  OneByteMessage 0x01 .off fun old => old &&& 0xFE

/-- R104: LED_SETTINGS: its meaning, with both writes and the value between them; the message of length 3 at any two
parameter bytes; MissingParameters below length 3 and TrailingBytes above, with no access to the cell. -/
def Obligations.LedSettingsMessageSetsColorThenBrightness : Prop :=
  (∀ (s : State) (c : BitVec 3) (b : BitVec 4),
    let mid : Byte := (s.ledreg &&& 0xF1) ||| (zext8 c <<< 1)
    let new : Byte := (mid &&& 0x0F) ||| (zext8 b <<< 4)
    Succeeds (exec (.ledSettings c b) s) s s.pending new []
      [.cellRead .block s.ledreg, .cellWrite .block mid, .cellRead .block mid, .cellWrite .block new]) ∧
  (∀ (s : State) (c b : Byte) (more : List Byte) (rest : List HostMove),
    Presents s 3 (0x02 :: c :: b :: more) rest →
    let mid : Byte := (s.ledreg &&& 0xF1) ||| ((c &&& 0x07) <<< 1)
    let new : Byte := (s.ledreg &&& 0x01) ||| ((c &&& 0x07) <<< 1) ||| ((b &&& 0x0F) <<< 4)
    Succeeds (step s) s rest new [0, 1, 2]
      [.cellRead .block s.ledreg, .cellWrite .block mid, .cellRead .block mid, .cellWrite .block new]) ∧
  (∀ (s : State) (length : Byte) (params : List Byte) (rest : List HostMove),
    Presents s length (0x02 :: params) rest → length.toNat ≤ params.length + 1 →
    (1 ≤ length.toNat → length.toNat < 3 → EndsInError s rest .missingParameters [0]) ∧
    (3 < length.toNat → EndsInError s rest .trailingBytes [0]))

/-- R105: an opcode from 0x03 to 0xFF is InvalidOpCode at any length from 1, with no access to the cell. -/
def Obligations.UnknownOpcodeIsInvalid : Prop :=
  ∀ (s : State) (length op : Byte) (params : List Byte) (rest : List HostMove),
    Presents s length (op :: params) rest → length.toNat ≤ params.length + 1 →
    1 ≤ length.toNat → 3 ≤ op.toNat → EndsInError s rest .invalidOpCode [0]

/-- R121 to R124: each error arises for exactly the messages its rule names; no byte is read for Empty and only the
opcode for the others; and nothing changes but the RESULT output, the record and the list of moves. -/
def Obligations.EachErrorHasExactlyItsCause : Prop :=
  ∀ (s : State) (length : Byte) (buf : List Byte) (rest : List HostMove),
    Presents s length buf rest → length.toNat ≤ buf.length →
    ∃ t : State, step s = .next t ∧
      (t.result = some (.error .empty) ↔ length = 0) ∧
      (t.result = some (.error .invalidOpCode) ↔
        1 ≤ length.toNat ∧ ∃ op, buf.head? = some op ∧ 3 ≤ op.toNat) ∧
      (t.result = some (.error .trailingBytes) ↔
        ((buf.head? = some 0x00 ∨ buf.head? = some 0x01) ∧ 2 ≤ length.toNat) ∨
        (buf.head? = some 0x02 ∧ 4 ≤ length.toNat)) ∧
      (t.result = some (.error .missingParameters) ↔
        buf.head? = some 0x02 ∧ (length = 1 ∨ length = 2)) ∧
      (∀ kind, t.result = some (.error kind) →
        EndsInError s rest kind (if kind = .empty then [] else [0]))

/-- R106: a message that ends in an error accesses the cell not at all; one that ends in Success makes exactly the
writes of its opcode's rule. -/
def Obligations.RejectedMessageNeverMutates : Prop :=
  ∀ (s : State) (length : Byte) (buf : List Byte) (rest : List HostMove),
    Presents s length buf rest → length.toNat ≤ buf.length →
    ∃ (t : State) (es : List Event), step s = .next t ∧ t.trace = s.trace ++ es ∧
      (t.result ≠ some .success → cellAccesses es = [] ∧ t.ledreg = s.ledreg) ∧
      (t.result = some .success →
        (buf.head? = some 0x00 ∧ cellWrites es = [(s.ledreg &&& 0xFE) ||| 0x01]) ∨
        (buf.head? = some 0x01 ∧ cellWrites es = [s.ledreg &&& 0xFE]) ∨
        (∃ c b more, buf = 0x02 :: c :: b :: more ∧
          cellWrites es = [(s.ledreg &&& 0xF1) ||| ((c &&& 0x07) <<< 1),
            (s.ledreg &&& 0x01) ||| ((c &&& 0x07) <<< 1) ||| ((b &&& 0x0F) <<< 4)]))

/-- R125: exactly one Result per transaction, chosen by the fixed order. -/
def Obligations.OneResultByPriority : Prop :=
  ∀ (s : State) (length : Byte) (buf : List Byte) (rest : List HostMove),
    Presents s length buf rest → length.toNat ≤ buf.length →
    ∃ (t : State) (es : List Event), step s = .next t ∧ t.trace = s.trace ++ es ∧
      results es = [resultByPriority length.toNat (buf.headD 0).toNat] ∧
      t.result = some (resultByPriority length.toNat (buf.headD 0).toNat)

/-- R120: after every transaction RESULT shows the code of its Result; Success, and only Success, is 0; and different
Results have different codes, whatever the platform's numbers are (decision D6; how they are held is log 5). -/
def Obligations.ResultPortTellsTheResultsApart : Prop :=
  Config.resultCodes.admissible = true ∧
  (∀ c : ResultCodes, c.admissible = true →
    c.code .success = 0 ∧ ∀ r₁ r₂ : Result, c.code r₁ = c.code r₂ → r₁ = r₂) ∧
  ∀ (s : State) (length : Byte) (buf : List Byte) (rest : List HostMove),
    Presents s length buf rest → length.toNat ≤ buf.length →
    ∃ (t : State) (r : Result), step s = .next t ∧ t.result = some r ∧
      t.resultPort = Config.resultCodes.code r ∧ (t.resultPort = 0 ↔ r = .success)

/-- R101: the old value of LEDREG never changes the Result (the spec derives it). -/
def Obligations.RegisterNeverChangesTheResult : Prop :=
  ∀ (s t : State) (u : Byte), step s = .next t →
    ∃ t' : State, step (s.setLedreg u) = .next t' ∧ t'.pending = t.pending ∧ t'.result = t.result

/-- No move reads back a past Result (R130), nor the record (the model's, log 15): what a step does to the register and
the moves, and the accesses and outputs it makes, are the same whatever the outputs so far were. That the Result
afterwards is the same also when the move was no message rests on the model's choice to leave RESULT undriven after
such a move (log 4). -/
def Obligations.PastOutputsAreNeverReadBack : Prop :=
  ∀ (s : State) (result : Option Result) (trace : List Event) (draws : Nat),
    let s' : State := { s with result := result, trace := trace, draws := draws }
    (∀ t, step s = .next t → ∃ (t' : State) (es : List Event), step s' = .next t' ∧
      t'.ledreg = t.ledreg ∧ t'.pending = t.pending ∧
      t.trace = s.trace ++ es ∧ t'.trace = trace ++ es ∧
      (s.pending ≠ [] → t'.result = t.result)) ∧
    (∀ r, step s = .refused r → step s' = .refused r)

/-- R108: the same message twice in a row: the second has the first one's Result and leaves the register as the first
left it, and a successful one makes its reads and writes again. -/
def Obligations.RepeatedMessageIsIdempotent : Prop :=
  ∀ (s : State) (length : Byte) (buf : List Byte) (rest : List HostMove),
    Presents s length buf (.operation (.message length buf) :: rest) → length.toNat ≤ buf.length →
    ∃ (t u : State) (es es' : List Event), step s = .next t ∧ step t = .next u ∧
      u.result = t.result ∧ u.ledreg = t.ledreg ∧
      t.trace = s.trace ++ es ∧ u.trace = t.trace ++ es' ∧
      (cellAccesses es').map (fun e => e.written?.isSome) =
        (cellAccesses es).map (fun e => e.written?.isSome)

/-- R37, R107: the bytes a message reads, each once and in order, none beyond its length; at most two reads and two
writes of the cell. That no other byte is read is the spec's decision D13. -/
def Obligations.MessageReadsOnlyItsBytes : Prop :=
  ∀ (s : State) (length : Byte) (buf : List Byte) (rest : List HostMove),
    Presents s length buf rest → length.toNat ≤ buf.length →
    ∃ (t : State) (es : List Event), step s = .next t ∧ t.trace = s.trace ++ es ∧
      offsetsRead es =
        (if length = 0 then [] else if buf.head? = some 0x02 ∧ length = 3 then [0, 1, 2] else [0]) ∧
      (∀ n v, .bufRead n v ∈ es → n < length.toNat ∧ buf[n]? = some v) ∧
      (cellReads es).length ≤ 2 ∧ (cellWrites es).length ≤ 2

/-- R63: a message and the commands it stands for have the same effect on LEDREG and the same accesses to the cell;
and INIT is CLEAR. -/
def Obligations.MessagesAreTheirCommands : Prop :=
  ∀ s : State,
    exec .init s = exec .clear s ∧
    (∃ (m c : State) (em ec : List Event), exec .on s = .next m ∧ exec .stateOn s = .next c ∧
      m.ledreg = c.ledreg ∧ m.trace = s.trace ++ em ∧ c.trace = s.trace ++ ec ∧
      cellAccesses em = cellAccesses ec) ∧
    (∃ (m c : State) (em ec : List Event), exec .off s = .next m ∧ exec .stateOff s = .next c ∧
      m.ledreg = c.ledreg ∧ m.trace = s.trace ++ em ∧ c.trace = s.trace ++ ec ∧
      cellAccesses em = cellAccesses ec) ∧
    (∀ c b : Byte, ∃ (m t u : State) (em ec : List Event),
      exec (.ledSettings (colorOperand c) (brightnessOperand b)) s = .next m ∧
      exec (.setColor c) s = .next t ∧ exec (.setBrightness b) t = .next u ∧
      m.ledreg = u.ledreg ∧ m.trace = s.trace ++ em ∧ u.trace = s.trace ++ ec ∧
      cellAccesses em = cellAccesses ec)

/-! ### Reset and the host -/

/-- R140: the reset event writes 0x00 once, reads nothing, and leaves RESULT undriven, from any state (decision D9;
`draws` is the model's, log 4). -/
def Obligations.ResetEventIsInit : Prop :=
  ∀ (s : State) (rest : List HostMove), s.pending = .reset :: rest →
    step s = .next (afterClear (s.setPending rest)) ∧ step s = exec .init (s.setPending rest)

/-- R15, R141: after reset LEDREG is 0x00, State off, Color 0, Brightness 0, and RESULT is not driven. -/
def Obligations.ResetLeavesZero : Prop :=
  State.reset.ledreg = 0x00 ∧ State.reset.stateOut = 0 ∧ State.reset.colorOut = 0 ∧
    State.reset.brightnessOut = 0 ∧ State.reset.result = none

/-- R12: the decoded outputs are register bits 0, 3:1 and 7:4 of the current LEDREG, bit by bit, and the host can take
each with one read of the cell and no write (decision D11; R85 to R87). -/
def Obligations.DecodedOutputsAreTheFields : Prop :=
  ∀ s : State,
    s.stateOut.getLsbD 0 = s.ledreg.getLsbD 0 ∧
    (∀ n, n < 3 → s.colorOut.getLsbD n = s.ledreg.getLsbD (n + 1)) ∧
    (∀ n, n < 4 → s.brightnessOut.getLsbD n = s.ledreg.getLsbD (n + 4)) ∧
    ∀ rest : List HostMove,
      (s.pending = .readStateOut :: rest → ∃ t, step s = .next t ∧ t.ledreg = s.ledreg ∧
        t.pending = rest ∧ t.trace = s.trace ++ [.cellRead .block s.ledreg, .stateOut s.stateOut]) ∧
      (s.pending = .readColorOut :: rest → ∃ t, step s = .next t ∧ t.ledreg = s.ledreg ∧
        t.pending = rest ∧ t.trace = s.trace ++ [.cellRead .block s.ledreg, .colorOut s.colorOut]) ∧
      (s.pending = .readBrightnessOut :: rest → ∃ t, step s = .next t ∧ t.ledreg = s.ledreg ∧
        t.pending = rest ∧
        t.trace = s.trace ++ [.cellRead .block s.ledreg, .brightnessOut s.brightnessOut])

/-- R31, R150: the host reads the value last written, and its read changes nothing in the block. -/
def Obligations.HostReadsTheLastValue : Prop :=
  ∀ (s : State) (rest : List HostMove), s.pending = .readCell :: rest →
    ∃ t : State, step s = .next t ∧ t.ledreg = s.ledreg ∧ t.pending = rest ∧
      t.trace = s.trace ++ [.cellRead .host s.ledreg]

/-- R36, R150: the host may write any value between operations, whatever comes next, and the cell then holds it; and
where an operation comes next it merges into it: the first read it makes returns the host's value, and the bits
outside its field are the host's (no stale copy). That the host's write is a move is log 17. -/
def Obligations.OperationsMergeIntoTheHostsValue : Prop :=
  (∀ (s : State) (v : Byte) (rest : List HostMove), s.pending = .writeCell v :: rest →
    ∃ t : State, step s = .next t ∧ t.ledreg = v ∧ t.pending = rest ∧
      t.trace = s.trace ++ [.cellWrite .host v]) ∧
  (∀ (s : State) (v : Byte) (o : Operation) (i : Instr) (rest : List HostMove),
    s.pending = .writeCell v :: .operation o :: rest → decode o = .instr i →
    ∃ (t x : State) (es : List Event),
      step s = .next t ∧ t.ledreg = v ∧ t.pending = .operation o :: rest ∧
      t.trace = s.trace ++ [.cellWrite .host v] ∧
      step t = .next x ∧ x.trace = t.trace ++ es ∧
      x.ledreg &&& ~~~(fieldMask i) = v &&& ~~~(fieldMask i) ∧
      ∀ w, (cellAccesses es).head? = some (.cellRead .block w) → w = v)

/-- R32: a write of the cell is the only way the register changes, in any step: LEDREG afterwards is the last value the
step wrote, or what it was. -/
def Obligations.OnlyWritesChangeTheRegister : Prop :=
  ∀ s t : State, step s = .next t →
    ∃ es : List Event, t.trace = s.trace ++ es ∧ t.ledreg = (cellWrites es).getLast?.getD s.ledreg

/-! ### Invariants and runs -/

/-- R31, R43: every step keeps the record coherent: each read returned the value most recently written, and the last
value written is what LEDREG holds. -/
def Obligations.StepKeepsTheRecordCoherent : Prop :=
  ∀ s t : State, s.Coherent → step s = .next t → t.Coherent

/-- The invariants hold after reset, and at power-up whatever the register holds. -/
def Obligations.InvariantsHoldAtResetAndPowerUp : Prop :=
  State.reset.Coherent ∧ State.reset.ResultShown ∧
    ∀ u : Byte, (State.powerUp.setLedreg u).Coherent ∧ (State.powerUp.setLedreg u).ResultShown

/-- R17, R21, R120, R141: every step keeps RESULT driven exactly while the last thing recorded is the end of a
transaction, and then it shows that transaction's Result. -/
def Obligations.StepKeepsResultShown : Prop :=
  ∀ s t : State, s.ResultShown → step s = .next t → t.ResultShown

/-- R107, R145, R152: a run in which the host keeps its duties comes to its end, each move taken in turn, with no fault
and no refusal, and with one more Result for each message. -/
def Obligations.DutifulRunComesToItsEnd : Prop :=
  ∀ s : State, s.dutiful = true →
    ∃ t : State, Sys2Proof.core.run s.pending.length s = .next t ∧ t.pending = [] ∧
      (results t.trace).length = (results s.trace).length + s.pending.countP movesMessage

/-- R101, R142: the Results of a whole run do not depend on what the register held before it. -/
def Obligations.RunResultsDoNotDependOnPowerUp : Prop :=
  ∀ (n : Nat) (s t : State) (u : Byte), Sys2Proof.core.run n s = .next t →
    ∃ t' : State, Sys2Proof.core.run n (s.setLedreg u) = .next t' ∧
      results t'.trace = results t.trace ∧ t'.result = t.result ∧ t'.pending = t.pending

/-- R31, R43, R152: whatever moves the host makes, along any run from power-up the record (the model's, log 15) explains
the register and the RESULT output: both invariants hold after every number of steps. That RESULT is undriven after
every move that is no message is the model's choice (log 4). -/
def Obligations.EveryRunFromPowerUpIsCoherent : Prop :=
  ∀ (n : Nat) (u : Byte) (moves : List HostMove) (t : State),
    Sys2Proof.core.run n ((State.powerUp.setLedreg u).setPending moves) = .next t →
      replay u t.trace = some t.ledreg ∧ t.ResultShown
end

