-- ==== Sys2Proof/Laws/Decode.lean ====
section
/-! SUPPORT. What the decoder answers, case by case. -/

namespace Sys2Proof

/-- LED_SETTINGS takes the low three bits of its colour byte (R54). -/
theorem colorOperand_eq (b : Byte) : colorOperand b = b.setWidth 3 := by
  refine BitVec.eq_of_getLsbD_eq fun n (h : n < 3) => ?_
  change ((b &&& 0x07).setWidth 3).getLsbD n = (b.setWidth 3).getLsbD n
  interval_cases n <;> simp

/-- LED_SETTINGS takes the low four bits of its brightness byte (R54). -/
theorem brightnessOperand_eq (b : Byte) : brightnessOperand b = b.setWidth 4 := by
  refine BitVec.eq_of_getLsbD_eq fun n (h : n < 4) => ?_
  change ((b &&& 0x0F).setWidth 4).getLsbD n = (b.setWidth 4).getLsbD n
  interval_cases n <;> simp

/-- A length read as a number. -/
theorem length_eq_iff (length : Byte) (n : Nat) (h : n < 256) :
    length = BitVec.ofNat 8 n ↔ length.toNat = n := by
  rw [← BitVec.toNat_inj, BitVec.toNat_ofNat, Nat.mod_eq_of_lt h]

/-- A short buffer is refused whatever it holds (R147). -/
theorem decodeMessage_short {length : Byte} {buf : List Byte} (h : buf.length < length.toNat) :
    decodeMessage length buf = .refused .shortBuffer := by
  simp [decodeMessage, messageSupplied, Nat.not_le.mpr h]

/-- Length 0 is Empty, for any buffer (R121). -/
theorem decodeMessage_zero (buf : List Byte) : decodeMessage 0 buf = .error .empty := by
  simp [decodeMessage, messageSupplied]

/-- A supplied message of length 1 or more is decided by its opcode (R100). -/
theorem decodeMessage_cons {length op : Byte} {params : List Byte}
    (h : length.toNat ≤ params.length + 1) (h0 : length.toNat ≠ 0) :
    decodeMessage length (op :: params) = decodeOpcode length op params := by
  have hz : length ≠ 0 := fun hz => h0 (by simp [hz])
  simp only [decodeMessage, messageSupplied, List.length_cons, h, decide_true, if_true, if_neg hz]

/-- A supplied message is never refused: it decodes to an instruction or to an error. -/
theorem decodeMessage_supplied {length : Byte} {buf : List Byte} (h : length.toNat ≤ buf.length) :
    (∃ i, decodeMessage length buf = .instr i) ∨ ∃ kind, decodeMessage length buf = .error kind := by
  by_cases h0 : length.toNat = 0
  · obtain rfl : length = 0 := BitVec.eq_of_toNat_eq h0
    exact .inr ⟨_, decodeMessage_zero buf⟩
  · cases buf with
    | nil => exact absurd (Nat.le_zero.mp h) h0
    | cons op params =>
      rw [decodeMessage_cons h h0]
      unfold decodeOpcode
      split
      · split <;> simp
      · split
        · split <;> simp
        · split
          · split
            · simp
            · split
              · simp
              · rename_i _ _ _ h3 _
                match params, h with
                | c :: b :: more, _ => simp
                | [c], h => simp [Machine.Const.lenLedSettings, BitVec.lt_def] at h3; simp at h; omega
                | [], h => simp [Machine.Const.lenLedSettings, BitVec.lt_def] at h3; simp at h; omega
          · simp

end Sys2Proof
end

