-- ==== Sys2Proof/Laws/Step.lean ====
section
/-! SUPPORT. Once, everything a step can do: a move has an effect that depends on the move and on LEDREG alone, and the
step applies it. Proofs about the machine cite these lemmas and unfold neither exec nor step. -/

namespace Sys2Proof.Machine

/-- What a completed move leaves: the register, the events it recorded, and the Result on RESULT, if driven. -/
structure Effect where
  ledreg : Byte
  events : List Event
  result : Option Result

/-- `s` after a move with this effect. -/
def State.after (s : State) (e : Effect) : State :=
  { s with
    ledreg := e.ledreg
    result := e.result
    trace := s.trace ++ e.events
    draws := if e.result.isNone then s.draws + 1 else s.draws }

section after
variable (s : State) (e : Effect)
@[simp] theorem State.after_ledreg : (s.after e).ledreg = e.ledreg := rfl
@[simp] theorem State.after_pending : (s.after e).pending = s.pending := rfl
@[simp] theorem State.after_result : (s.after e).result = e.result := rfl
@[simp] theorem State.after_trace : (s.after e).trace = s.trace ++ e.events := rfl
end after

/-- One read, then one write (R33). -/
def rwEffect (old new : Byte) (r : Option Result) : Effect :=
  { ledreg := new
    events := [.cellRead .block old, .cellWrite .block new] ++ (r.map Event.result).toList
    result := r }

/-- One write (R33). -/
def clearEffect : Effect := { ledreg := 0, events := [.cellWrite .block 0], result := none }

/-- The effect of an instruction on a register that holds `old`. -/
def instrEffect (i : Instr) (old : Byte) : Effect :=
  match i with
  | .on => rwEffect old (stateMerged 1 old) (some .success)
  | .off => rwEffect old (stateMerged 0 old) (some .success)
  | .ledSettings c b =>
    let mid := colorMerged (zext8 c) old
    let new := brightnessMerged (zext8 b) mid
    { ledreg := new
      events := [.cellRead .block old, .cellWrite .block mid, .cellRead .block mid,
        .cellWrite .block new, .result .success]
      result := some .success }
  | .clear | .init => clearEffect
  | .setState on => rwEffect old (stateMerged on old) none
  | .setColor bits => rwEffect old (colorMerged bits old) none
  | .setBrightness value => rwEffect old (brightnessMerged value old) none
  | .stateOn => rwEffect old (stateMerged 1 old) none
  | .stateOff => rwEffect old (stateMerged 0 old) none
  | .colorRed => rwEffect old (colorMerged Const.colorRed old) none
  | .colorGreen => rwEffect old (colorMerged Const.colorGreen old) none
  | .colorBlue => rwEffect old (colorMerged Const.colorBlue old) none
  | .brightnessMin => rwEffect old (brightnessMerged Const.brightnessMin old) none
  | .brightnessMax => rwEffect old (brightnessMerged Const.brightnessMax old) none

/-- Every instruction answers the state its effect leaves. -/
theorem exec_eq (i : Instr) (s : State) : exec i s = .next (s.after (instrEffect i s.ledreg)) := by
  cases i <;> simp [exec, execOn, execOff, execLedSettings, execClear, execInit, execSetState, execSetColor,
    execSetBrightness, execStateOn, execStateOff, execColorRed, execColorGreen, execColorBlue,
    execBrightnessMin, execBrightnessMax, State.after, instrEffect, rwEffect, clearEffect,
    State.setStateField_eq, State.setColorField_eq, State.setBrightnessField_eq, State.clearRegister_eq,
    State.returnSuccess_eq, State.undriveResult_eq]

/-- The buffer reads of presenting an operation. -/
def fetchEvents : Operation → List Event
  | .command _ _ => []
  | .message length buf => State.bufferEvents length buf

theorem fetchOperands_trace (o : Operation) (s : State) :
    s.fetchOperands o = { s with trace := s.trace ++ fetchEvents o } := by
  cases o with
  | command cmd arg => simp [State.fetchOperands, fetchEvents]
  | message length buf => exact s.readBuffer_eq length buf

/-- The effect of a move on a register that holds `old`; none where the move is refused. -/
def moveEffect (m : HostMove) (old : Byte) : Option Effect :=
  match m with
  | .reset => some clearEffect
  | .operation o =>
    match decode o with
    | .instr i =>
      some { instrEffect i old with events := fetchEvents o ++ (instrEffect i old).events }
    | .error kind =>
      some { ledreg := old, events := fetchEvents o ++ [.result (.error kind)], result := some (.error kind) }
    | .refused _ => none
  | .writeCell v => some { ledreg := v, events := [.cellWrite .host v], result := none }
  | .readCell => some { ledreg := old, events := [.cellRead .host old], result := none }
  | .readStateOut =>
    some { ledreg := old, events := [.cellRead .block old, .stateOut (getState old)], result := none }
  | .readColorOut =>
    some { ledreg := old, events := [.cellRead .block old, .colorOut (getColor old)], result := none }
  | .readBrightnessOut =>
    some { ledreg := old, events := [.cellRead .block old, .brightnessOut (getBrightness old)], result := none }

theorem step_of_no_move {s : State} (h : s.pending = []) : step s = .next s := by simp [step, idle, h]

/-- A move that has an effect completes with it. -/
theorem step_of_effect {s : State} {m : HostMove} {ms : List HostMove} {e : Effect}
    (h : s.pending = m :: ms) (he : moveEffect m s.ledreg = some e) :
    step s = .next ((s.setPending ms).after e) := by
  simp only [step, h]
  cases m with
  | operation o =>
    simp only [performMove, performOperation]
    cases hd : decode o with
    | instr i =>
      simp only [moveEffect, hd, Option.some.injEq] at he
      subst he
      simp [exec_eq, fetchOperands_trace, State.after]
    | error kind =>
      simp only [moveEffect, hd, Option.some.injEq] at he
      subst he
      simp [fetchOperands_trace, State.raise_eq, State.after]
    | refused duty => simp [moveEffect, hd] at he
  | _ =>
    simp only [moveEffect, Option.some.injEq] at he
    subst he
    simp [performMove, State.after, clearEffect, State.resetEvent_eq, State.hostWrite_eq, State.hostRead_eq,
      State.takeOutput_eq]

/-- A move that has no effect is an operation that the decoder refuses, and the step is that refusal. -/
theorem step_of_no_effect {s : State} {m : HostMove} {ms : List HostMove}
    (h : s.pending = m :: ms) (he : moveEffect m s.ledreg = none) :
    ∃ o duty, m = .operation o ∧ decode o = .refused duty ∧ step s = .refused (.ofDuty duty) := by
  cases m with
  | operation o =>
    cases hd : decode o with
    | refused duty => exact ⟨o, duty, rfl, hd, by simp [step, h, performMove, performOperation, hd]⟩
    | _ => simp [moveEffect, hd] at he
  | _ => simp [moveEffect] at he

/-- If a step answers a next state, then either no move was left and nothing changed, or the next move had an effect and
the step applied it. -/
theorem step_cases {s t : State} (h : step s = .next t) :
    (s.pending = [] ∧ t = s) ∨
    ∃ m ms e, s.pending = m :: ms ∧ moveEffect m s.ledreg = some e ∧ t = (s.setPending ms).after e := by
  cases hp : s.pending with
  | nil =>
    rw [step_of_no_move hp] at h
    exact .inl ⟨rfl, (Host.Outcome.next.inj h).symm⟩
  | cons m ms =>
    cases he : moveEffect m s.ledreg with
    | none =>
      obtain ⟨o, duty, -, -, hr⟩ := step_of_no_effect hp he
      rw [hr] at h
      cases h
    | some e =>
      rw [step_of_effect hp he] at h
      exact .inr ⟨m, ms, e, rfl, he, (Host.Outcome.next.inj h).symm⟩

/-- A step answers a next state or a refusal: no fault exists. -/
theorem step_next_or_refused (s : State) : (∃ t, step s = .next t) ∨ ∃ r, step s = .refused r := by
  cases h : step s with
  | next t => exact .inl ⟨t, rfl⟩
  | refused r => exact .inr ⟨r, rfl⟩
  | fault f => exact nomatch f

end Sys2Proof.Machine
end

