-- ==== Sys2Proof/Laws/Message.lean ====
section
/-! SUPPORT. The cases of a supplied message (R56): what it decodes to and which bytes it reads. A proof about messages
takes these cases and unfolds no decoder. -/

namespace Sys2Proof.Machine

/-- A message's length and bytes, what they decode to, and the buffer reads they make. -/
inductive MessageCase : Byte → List Byte → Decoded → List Event → Prop where
  | empty (buf : List Byte) : MessageCase 0 buf (.error .empty) []
  | on (params : List Byte) : MessageCase 1 (0 :: params) (.instr .on) [.bufRead 0 0]
  | off (params : List Byte) : MessageCase 1 (1 :: params) (.instr .off) [.bufRead 0 1]
  | longOneByte (length op : Byte) (params : List Byte) (hop : op = 0 ∨ op = 1) (h : 2 ≤ length.toNat) :
      MessageCase length (op :: params) (.error .trailingBytes) [.bufRead 0 op]
  | shortSettings (length : Byte) (params : List Byte) (h1 : 1 ≤ length.toNat) (h : length.toNat < 3) :
      MessageCase length (2 :: params) (.error .missingParameters) [.bufRead 0 2]
  | longSettings (length : Byte) (params : List Byte) (h : 3 < length.toNat) :
      MessageCase length (2 :: params) (.error .trailingBytes) [.bufRead 0 2]
  | settings (c b : Byte) (more : List Byte) :
      MessageCase 3 (2 :: c :: b :: more) (.instr (.ledSettings (colorOperand c) (brightnessOperand b)))
        [.bufRead 0 2, .bufRead 1 c, .bufRead 2 b]
  | unknown (length op : Byte) (params : List Byte) (h1 : 1 ≤ length.toNat) (hop : 3 ≤ op.toNat) :
      MessageCase length (op :: params) (.error .invalidOpCode) [.bufRead 0 op]

/-- Only the opcode byte is read, but for a message of length 3 that begins with 0x02 (R37). -/
theorem fetchEvents_one {length op : Byte} {params : List Byte} (h0 : length.toNat ≠ 0)
    (hn : ¬(op = 2 ∧ length = 3)) : fetchEvents (.message length (op :: params)) = [.bufRead 0 op] := by
  have hz : length ≠ 0 := fun hz => h0 (by simp [hz])
  have hn' : ¬(some op = some Const.opLedSettings ∧ length = Const.lenLedSettings) := fun h =>
    hn ⟨Option.some.inj h.1, h.2⟩
  have ho : bufferOffsets length (op :: params) = [0] := by
    rw [bufferOffsets, if_neg hz]
    exact if_neg hn'
  simp [fetchEvents, State.bufferEvents, ho]

/-- Every supplied message is one of the cases. -/
theorem message_case {length : Byte} {buf : List Byte} (h : length.toNat ≤ buf.length) :
    MessageCase length buf (decode (.message length buf)) (fetchEvents (.message length buf)) := by
  by_cases h0 : length.toNat = 0
  · obtain rfl : length = 0 := BitVec.eq_of_toNat_eq h0
    have hd : decode (.message 0 buf) = .error .empty := decodeMessage_zero buf
    have hf : fetchEvents (.message 0 buf) = [] := by
      simp [fetchEvents, State.bufferEvents, bufferOffsets]
    rw [hd, hf]
    exact .empty buf
  cases buf with
  | nil => exact absurd (Nat.le_zero.mp h) h0
  | cons op params =>
    have hd : decode (.message length (op :: params)) = decodeOpcode length op params :=
      decodeMessage_cons h h0
    by_cases o0 : op = 0
    · subst o0
      rw [fetchEvents_one h0 (by simp), hd]
      by_cases l1 : length.toNat = 1
      · obtain rfl : length = 1 := BitVec.eq_of_toNat_eq l1
        exact .on params
      · have hl : Const.lenOn < length := by simp [Const.lenOn, BitVec.lt_def]; omega
        simpa [decodeOpcode, Const.opOn, hl] using .longOneByte length 0 params (.inl rfl) (by omega)
    by_cases o1 : op = 1
    · subst o1
      rw [fetchEvents_one h0 (by simp), hd]
      by_cases l1 : length.toNat = 1
      · obtain rfl : length = 1 := BitVec.eq_of_toNat_eq l1
        exact .off params
      · have hl : Const.lenOff < length := by simp [Const.lenOff, BitVec.lt_def]; omega
        simpa [decodeOpcode, Const.opOn, Const.opOff, hl] using
          .longOneByte length 1 params (.inr rfl) (by omega)
    by_cases o2 : op = 2
    · subst o2
      by_cases l3 : length.toNat = 3
      · obtain rfl : length = 3 := BitVec.eq_of_toNat_eq l3
        match params, h with
        | c :: b :: more, _ =>
          rw [hd]
          exact .settings c b more
        | [c], h => simp at h
        | [], h => simp at h
      · rw [fetchEvents_one h0 (fun hh => l3 (by rw [hh.2]; rfl)), hd]
        by_cases lt : length.toNat < 3
        · have hl : length < Const.lenLedSettings := by simp [Const.lenLedSettings, BitVec.lt_def]; omega
          simpa [decodeOpcode, Const.opOn, Const.opOff, Const.opLedSettings, hl] using
            .shortSettings length params (by omega) lt
        · have hl : ¬length < Const.lenLedSettings := by simp [Const.lenLedSettings, BitVec.lt_def]; omega
          have hg : Const.lenLedSettings < length := by simp [Const.lenLedSettings, BitVec.lt_def]; omega
          simpa [decodeOpcode, Const.opOn, Const.opOff, Const.opLedSettings, hl, hg] using
            .longSettings length params (by omega)
    · have h3 : 3 ≤ op.toNat := by
        have a0 : op.toNat ≠ 0 := fun h => o0 (BitVec.eq_of_toNat_eq h)
        have a1 : op.toNat ≠ 1 := fun h => o1 (BitVec.eq_of_toNat_eq h)
        have a2 : op.toNat ≠ 2 := fun h => o2 (BitVec.eq_of_toNat_eq h)
        omega
      have hu : decodeOpcode length op params = .error .invalidOpCode := by
        simp only [decodeOpcode, if_neg (show ¬op = Const.opOn from o0), if_neg (show ¬op = Const.opOff from o1),
          if_neg (show ¬op = Const.opLedSettings from o2)]
      rw [fetchEvents_one h0 (fun hh => o2 hh.1), hd, hu]
      exact .unknown length op params (by omega) h3

/-- The step of a supplied message, by its case: the reads, then the instruction's effect or the error (R100). -/
theorem step_of_message {s : State} {length : Byte} {buf : List Byte} {ms : List HostMove} {d : Decoded}
    {reads : List Event} (h : s.pending = .operation (.message length buf) :: ms)
    (hd : decode (.message length buf) = d) (hr : fetchEvents (.message length buf) = reads) :
    (∀ i, d = .instr i → step s = .next ((s.setPending ms).after
      { instrEffect i s.ledreg with events := reads ++ (instrEffect i s.ledreg).events })) ∧
    (∀ kind, d = .error kind → step s = .next ((s.setPending ms).after
      { ledreg := s.ledreg, events := reads ++ [.result (.error kind)], result := some (.error kind) })) := by
  constructor
  · intro i hi
    exact step_of_effect h (by simp [moveEffect, hd, hi, hr])
  · intro kind hk
    exact step_of_effect h (by simp [moveEffect, hd, hk, hr])

end Sys2Proof.Machine
end

