-- ==== Sys2Proof/Laws/Observation.lean ====
section
/-! SUPPORT. The small lemmas of the observations (R152) and of the replay. -/

namespace Sys2Proof.Machine

section projections
variable (a : Agent) (v : Byte) (n : Nat) (r : Result) (x : StateBits) (c : ColorBits) (b : BrightnessBits)
  (e : Event) (es fs : List Event)

@[simp] theorem cellWrites_nil : cellWrites [] = [] := rfl
@[simp] theorem cellWrites_append : cellWrites (es ++ fs) = cellWrites es ++ cellWrites fs :=
  List.filterMap_append
@[simp] theorem cellWrites_cellWrite : cellWrites (.cellWrite a v :: es) = v :: cellWrites es := rfl
@[simp] theorem cellWrites_cellRead : cellWrites (.cellRead a v :: es) = cellWrites es := rfl
@[simp] theorem cellWrites_bufRead : cellWrites (.bufRead n v :: es) = cellWrites es := rfl
@[simp] theorem cellWrites_result : cellWrites (.result r :: es) = cellWrites es := rfl
@[simp] theorem cellWrites_stateOut : cellWrites (.stateOut x :: es) = cellWrites es := rfl
@[simp] theorem cellWrites_colorOut : cellWrites (.colorOut c :: es) = cellWrites es := rfl
@[simp] theorem cellWrites_brightnessOut : cellWrites (.brightnessOut b :: es) = cellWrites es := rfl

@[simp] theorem cellReads_nil : cellReads [] = [] := rfl
@[simp] theorem cellReads_append : cellReads (es ++ fs) = cellReads es ++ cellReads fs :=
  List.filterMap_append
@[simp] theorem cellReads_cellWrite : cellReads (.cellWrite a v :: es) = cellReads es := rfl
@[simp] theorem cellReads_cellRead : cellReads (.cellRead a v :: es) = v :: cellReads es := rfl
@[simp] theorem cellReads_bufRead : cellReads (.bufRead n v :: es) = cellReads es := rfl
@[simp] theorem cellReads_result : cellReads (.result r :: es) = cellReads es := rfl
@[simp] theorem cellReads_stateOut : cellReads (.stateOut x :: es) = cellReads es := rfl
@[simp] theorem cellReads_colorOut : cellReads (.colorOut c :: es) = cellReads es := rfl
@[simp] theorem cellReads_brightnessOut : cellReads (.brightnessOut b :: es) = cellReads es := rfl

@[simp] theorem results_nil : results [] = [] := rfl
@[simp] theorem results_append : results (es ++ fs) = results es ++ results fs := List.filterMap_append
@[simp] theorem results_cellWrite : results (.cellWrite a v :: es) = results es := rfl
@[simp] theorem results_cellRead : results (.cellRead a v :: es) = results es := rfl
@[simp] theorem results_bufRead : results (.bufRead n v :: es) = results es := rfl
@[simp] theorem results_result : results (.result r :: es) = r :: results es := rfl
@[simp] theorem results_stateOut : results (.stateOut x :: es) = results es := rfl
@[simp] theorem results_colorOut : results (.colorOut c :: es) = results es := rfl
@[simp] theorem results_brightnessOut : results (.brightnessOut b :: es) = results es := rfl

@[simp] theorem cellAccesses_nil : cellAccesses [] = [] := rfl
@[simp] theorem cellAccesses_append : cellAccesses (es ++ fs) = cellAccesses es ++ cellAccesses fs :=
  List.filter_append ..
@[simp] theorem cellAccesses_cellWrite :
    cellAccesses (.cellWrite a v :: es) = .cellWrite a v :: cellAccesses es := rfl
@[simp] theorem cellAccesses_cellRead :
    cellAccesses (.cellRead a v :: es) = .cellRead a v :: cellAccesses es := rfl
@[simp] theorem cellAccesses_bufRead : cellAccesses (.bufRead n v :: es) = cellAccesses es := rfl
@[simp] theorem cellAccesses_result : cellAccesses (.result r :: es) = cellAccesses es := rfl
@[simp] theorem cellAccesses_stateOut : cellAccesses (.stateOut x :: es) = cellAccesses es := rfl
@[simp] theorem cellAccesses_colorOut : cellAccesses (.colorOut c :: es) = cellAccesses es := rfl
@[simp] theorem cellAccesses_brightnessOut : cellAccesses (.brightnessOut b :: es) = cellAccesses es := rfl

@[simp] theorem offsetsRead_nil : offsetsRead [] = [] := rfl
@[simp] theorem offsetsRead_append : offsetsRead (es ++ fs) = offsetsRead es ++ offsetsRead fs :=
  List.filterMap_append
@[simp] theorem offsetsRead_cellWrite : offsetsRead (.cellWrite a v :: es) = offsetsRead es := rfl
@[simp] theorem offsetsRead_cellRead : offsetsRead (.cellRead a v :: es) = offsetsRead es := rfl
@[simp] theorem offsetsRead_bufRead : offsetsRead (.bufRead n v :: es) = n :: offsetsRead es := rfl
@[simp] theorem offsetsRead_result : offsetsRead (.result r :: es) = offsetsRead es := rfl
@[simp] theorem offsetsRead_stateOut : offsetsRead (.stateOut x :: es) = offsetsRead es := rfl
@[simp] theorem offsetsRead_colorOut : offsetsRead (.colorOut c :: es) = offsetsRead es := rfl
@[simp] theorem offsetsRead_brightnessOut : offsetsRead (.brightnessOut b :: es) = offsetsRead es := rfl

@[simp] theorem written_cellWrite : (Event.cellWrite a v).written? = some v := rfl
@[simp] theorem written_cellRead : (Event.cellRead a v).written? = none := rfl

@[simp] theorem replay_nil : replay v [] = some v := rfl
@[simp] theorem replay_cellWrite (w : Byte) : replay v (.cellWrite a w :: es) = replay w es := rfl
@[simp] theorem replay_cellRead (w : Byte) :
    replay v (.cellRead a w :: es) = if w = v then replay v es else none := rfl
@[simp] theorem replay_bufRead (w : Byte) : replay v (.bufRead n w :: es) = replay v es := rfl
@[simp] theorem replay_result : replay v (.result r :: es) = replay v es := rfl
@[simp] theorem replay_stateOut :
    replay v (.stateOut x :: es) = if x = getState v then replay v es else none := rfl
@[simp] theorem replay_colorOut :
    replay v (.colorOut c :: es) = if c = getColor v then replay v es else none := rfl
@[simp] theorem replay_brightnessOut :
    replay v (.brightnessOut b :: es) = if b = getBrightness v then replay v es else none := rfl

end projections

/-- Replaying two records one after the other. -/
theorem replay_append (v : Byte) (es fs : List Event) :
    replay v (es ++ fs) = (replay v es).bind fun w => replay w fs := by
  induction es generalizing v with
  | nil => rfl
  | cons e es ih => cases e <;> simp [ih] <;> split <;> simp

end Sys2Proof.Machine
end

