-- ==== Sys2Proof/Laws/Operands.lean ====
section
/-! SUPPORT. One lemma per pure function of the Register Model, with masks, shifts and widths as literals: later proofs
cite these and unfold no constant. Where a goal names a width of R5, `simp [Const.brightnessWidth]` gives its number. -/

namespace Sys2Proof.Machine

/-! The register masks as R5's table gives them. -/

@[simp] theorem stateMask_eq : Const.stateMask = 0x01 := rfl
@[simp] theorem colorMask_eq : Const.colorMask = 0x0E := rfl
@[simp] theorem brightnessMask_eq : Const.brightnessMask = 0xF0 := rfl

theorem merge_getLsbD (old mask v : Byte) (n : Nat) (h : n < 8) :
    (merge old mask v).getLsbD n = if mask.getLsbD n then v.getLsbD n else old.getLsbD n := by
  simp only [merge, BitVec.getLsbD_or, BitVec.getLsbD_and, BitVec.getLsbD_not, h]
  cases mask.getLsbD n <;> simp

/-- Two bytes with the same eight bits are equal. -/
theorem byte_ext {a b : Byte} (h : ∀ n, n < 8 → a.getLsbD n = b.getLsbD n) : a = b :=
  BitVec.eq_of_getLsbD_eq h

theorem stateMerged_eq (on : StateBits) (old : Byte) :
    stateMerged on old = (old &&& 0xFE) ||| zext8 on := by
  refine byte_ext fun n h => ?_
  rw [stateMerged, merge_getLsbD _ _ _ _ h]
  interval_cases n <;> simp [Const.stateVMask, Const.stateShift]

theorem colorMerged_eq (bits old : Byte) :
    colorMerged bits old = (old &&& 0xF1) ||| ((bits &&& 0x07) <<< 1) := by
  refine byte_ext fun n h => ?_
  rw [colorMerged, merge_getLsbD _ _ _ _ h]
  interval_cases n <;> simp [Const.colorVMask, Const.colorShift]

theorem brightnessMerged_eq (value old : Byte) :
    brightnessMerged value old = (old &&& 0x0F) ||| ((value &&& 0x0F) <<< 4) := by
  refine byte_ext fun n h => ?_
  rw [brightnessMerged, merge_getLsbD _ _ _ _ h]
  interval_cases n <;> simp [Const.brightnessVMask, Const.brightnessShift]

/-- GET_STATE is register bit 0. -/
theorem getState_eq (r : Byte) : getState r = r.setWidth 1 := by
  refine BitVec.eq_of_getLsbD_eq fun n (h : n < 1) => ?_
  interval_cases n
  simp [getState, Const.stateShift]

/-- GET_COLOR is register bits 3:1. -/
theorem getColor_eq (r : Byte) : getColor r = (r >>> 1).setWidth 3 := by
  refine BitVec.eq_of_getLsbD_eq fun n (h : n < 3) => ?_
  interval_cases n <;> simp [getColor, Const.colorShift]

/-- GET_BRIGHTNESS is register bits 7:4. -/
theorem getBrightness_eq (r : Byte) : getBrightness r = (r >>> 4).setWidth 4 := by
  refine BitVec.eq_of_getLsbD_eq fun n (h : n < 4) => ?_
  interval_cases n <;> simp [getBrightness, Const.brightnessShift]

/-- ENCODE puts each field in its place; no mask cuts a bit of it. -/
theorem encodeFields_eq (s : BitVec 1) (c : BitVec 3) (b : BitVec 4) :
    encodeFields s c b = zext8 s ||| (zext8 c <<< 1) ||| (zext8 b <<< 4) := by
  refine byte_ext fun n h => ?_
  change ((zext8 s &&& 0x01) ||| ((zext8 c &&& 0x07) <<< 1) ||| ((zext8 b &&& 0x0F) <<< 4)).getLsbD n = _
  interval_cases n <;> simp

end Sys2Proof.Machine
end

