-- ==== Sys2Proof/Laws/PerInstr.lean ====
section
/-! SUPPORT. For every instruction: its encoding breaks no duty of the host, so it is never refused. -/

namespace Sys2Proof.Laws.EncodingMeetsDuties

/-- The encoder presents the instruction as R150 asks of the host. -/
def Statement (i : Instr) : Prop := (encode i).wellFormed = true

theorem on : Statement .on := rfl
theorem off : Statement .off := rfl
theorem ledSettings (color : ColorBits) (brightness : BrightnessBits) : Statement (.ledSettings color brightness) := rfl
theorem clear : Statement .clear := rfl
theorem init : Statement .init := rfl
theorem setState (on : StateBits) : Statement (.setState on) := by unfold Statement; revert on; decide
theorem setColor (bits : Byte) : Statement (.setColor bits) := rfl
theorem setBrightness (value : Byte) : Statement (.setBrightness value) := rfl
theorem stateOn : Statement .stateOn := rfl
theorem stateOff : Statement .stateOff := rfl
theorem colorRed : Statement .colorRed := rfl
theorem colorGreen : Statement .colorGreen := rfl
theorem colorBlue : Statement .colorBlue := rfl
theorem brightnessMin : Statement .brightnessMin := rfl
theorem brightnessMax : Statement .brightnessMax := rfl

end Sys2Proof.Laws.EncodingMeetsDuties
end

