-- ==== Sys2Proof/Laws/Run.lean ====
section
/-! SUPPORT. Runs of the machine, one step at a time. -/

namespace Sys2Proof.Machine

theorem run_zero (s : State) : core.run 0 s = .next s := rfl

/-- One step of any core, then the rest of the run. -/
theorem coreRun_of_next {M : Host.Core} {s t : M.State} (n : Nat) (h : M.step s = .next t) :
    M.run (n + 1) s = M.run n t := by
  simp [Host.Core.run, h]

/-- A run of any core ends at a refusal. -/
theorem coreRun_of_refused {M : Host.Core} {s : M.State} {r : M.Refusal} (n : Nat)
    (h : M.step s = .refused r) : M.run (n + 1) s = .refused r := by
  simp [Host.Core.run, h]

theorem run_of_next {s t : State} (n : Nat) (h : step s = .next t) : core.run (n + 1) s = core.run n t :=
  coreRun_of_next (M := core) n h

theorem run_of_refused {s : State} {r : Refusal} (n : Nat) (h : step s = .refused r) :
    core.run (n + 1) s = .refused r :=
  coreRun_of_refused (M := core) n h

/-- What every step keeps holds at the end of every run: the induction over runs, once. -/
theorem run_induction {P : State → Prop} (keep : ∀ s t, P s → step s = .next t → P t) :
    ∀ (n : Nat) (s t : State), P s → core.run n s = .next t → P t := by
  intro n
  induction n with
  | zero =>
    intro s t hs h
    cases h
    exact hs
  | succ n ih =>
    intro s t hs h
    rcases step_next_or_refused s with ⟨x, hx⟩ | ⟨r, hx⟩
    · rw [run_of_next n hx] at h
      exact ih x t (keep s x hs hx) h
    · rw [run_of_refused n hx] at h
      cases h

end Sys2Proof.Machine
end

