-- ==== Sys2Proof/Tests/Slice0.lean ====
section
/-! SUPPORT. Tests: decoding of words written out from spec/30_encoding.md, the refusals of WellFormed, single steps
against the vectors of spec/95_test_vectors.md (each named where it stands), and a witness for the hypotheses of every
statement that has some. -/

open Sys2Proof Sys2Proof.Machine Sys2Proof.Claims

namespace Sys2Proof.Tests

/-- A state whose register holds `v` and whose next move is `m`. -/
def about (v : Byte) (m : HostMove) : State :=
  { ledreg := v, pending := [m], result := none, trace := [], draws := 0 }

/-- A state that presents a message. -/
def withMessage (v length : Byte) (buf : List Byte) : State := about v (.operation (.message length buf))

/-- A state that presents a command. -/
def withCommand (v : Byte) (cmd : CmdCode) (arg : Byte) : State := about v (.operation (.command cmd arg))

/-- The register, the Result and the writes after one step; none where it stops. -/
def outcome (s : State) : Option (Byte × Option Result × List Byte) :=
  match step s with
  | .next t => some (t.ledreg, t.result, cellWrites t.trace)
  | .fault _ => none
  | .refused _ => none

/-- Why a step is refused; none where it is not. -/
def refusal (s : State) : Option Refusal :=
  match step s with
  | .refused r => some r
  | .next _ => none
  | .fault _ => none

end Sys2Proof.Tests

open Sys2Proof.Tests

/-! The literals of R5: the register masks' values, disjoint and covering the register; the fields' widths fill it. -/

theorem test_register_masks :
    Const.stateMask = 0x01 ∧ Const.colorMask = 0x0E ∧ Const.brightnessMask = 0xF0 ∧
      Const.stateMask ||| Const.colorMask ||| Const.brightnessMask = 0xFF ∧
      Const.stateMask &&& Const.colorMask = 0 ∧ Const.stateMask &&& Const.brightnessMask = 0 ∧
      Const.colorMask &&& Const.brightnessMask = 0 := by decide
theorem test_field_widths :
    (Const.stateWidth, Const.colorWidth, Const.brightnessWidth) = (1, 3, 4) ∧
      Const.stateShift + Const.stateWidth = Const.colorShift ∧
      Const.colorShift + Const.colorWidth = Const.brightnessShift ∧
      Const.brightnessShift + Const.brightnessWidth = 8 := by decide

/-! Decoding: every constructor by a word written out from R52, R53, R60 and numbered as R64 says. -/

theorem test_decode_on : decodeTableWord 8 0b00000000 = some .on := by decide
theorem test_decode_off : decodeTableWord 8 0b00000001 = some .off := by decide
theorem test_decode_ledSettings :
    decodeTableWord 24 0b00000010_00000110_00001001 = some (.ledSettings 6 9) := by decide
theorem test_decode_ledSettings_ignores_high_bits :
    decodeTableWord 24 0b00000010_11111010_00110101 = some (.ledSettings 2 5) := by decide
theorem test_decode_clear : decodeTableWord 16 0b0000_00000000 = some .clear := by decide
theorem test_decode_clear_ignores_arg : decodeTableWord 16 0b0000_10100101 = some .clear := by decide
theorem test_decode_init : decodeTableWord 16 0b0001_00000000 = some .init := by decide
theorem test_decode_setState : decodeTableWord 16 0b0010_00000001 = some (.setState 1) := by decide
theorem test_decode_setColor : decodeTableWord 16 0b0011_11111010 = some (.setColor 0xFA) := by decide
theorem test_decode_setBrightness :
    decodeTableWord 16 0b0100_00011111 = some (.setBrightness 0x1F) := by decide
theorem test_decode_stateOn : decodeTableWord 16 0b0101_00000000 = some .stateOn := by decide
theorem test_decode_stateOff : decodeTableWord 16 0b0110_00000000 = some .stateOff := by decide
theorem test_decode_colorRed : decodeTableWord 16 0b0111_00000000 = some .colorRed := by decide
theorem test_decode_colorGreen : decodeTableWord 16 0b1000_00000000 = some .colorGreen := by decide
theorem test_decode_colorBlue : decodeTableWord 16 0b1001_00000000 = some .colorBlue := by decide
theorem test_decode_brightnessMin : decodeTableWord 16 0b1010_00000000 = some .brightnessMin := by decide
theorem test_decode_brightnessMax : decodeTableWord 12 0b1011_00000000 = some .brightnessMax := by decide
theorem test_decode_unknown_opcode : decodeTableWord 8 0b00000011 = none := by decide
theorem test_decode_settings_too_short : decodeTableWord 8 0b00000010 = none := by decide
theorem test_decode_reserved_commands :
    ([0xC00, 0xD00, 0xE00, 0xF00, 0x202].map fun w => decodeTableWord 16 w) =
      [none, none, none, none, none] := by decide
theorem test_decode_no_such_format : decodeTableWord 32 0 = none ∧ decodeTableWord 16 0x1000 = none := by decide

/-! WellFormed: an ill-formed term for each check, beside the nearest accepted one (V-RF-1, 2, 3, 4, 6). -/

theorem test_wellFormed_short_buffer :
    (Operation.message 3 [0x02, 0x01]).wellFormed = false ∧
      (Operation.message 2 [0x02, 0x01]).wellFormed = true := by decide
theorem test_wellFormed_empty_buffer :
    (Operation.message 1 []).wellFormed = false ∧ (Operation.message 0 []).wellFormed = true := by decide
theorem test_wellFormed_reserved_command :
    (Operation.command 0xC 0x00).wellFormed = false ∧ (Operation.command 0xB 0x00).wellFormed = true := by
  decide
theorem test_wellFormed_setState_operand :
    (Operation.command 0x2 0x02).wellFormed = false ∧ (Operation.command 0x2 0x01).wellFormed = true := by
  decide

/-! Refusals (V-RF). -/

theorem test_refuse_setState_operand : refusal (withCommand 0xFF 0x2 0x02) = some (.setStateOperand 0x02) := by
  decide
theorem test_refuse_reserved_command : refusal (withCommand 0xFF 0xF 0x00) = some (.reservedCommand 0xF) := by
  decide
theorem test_refuse_short_buffer_even_if_unread :
    refusal (withMessage 0xA5 4 [0x02, 0x07, 0x0F]) = some .shortBuffer := by decide

/-! Single steps: the register, the Result and the writes. Expected values from spec/95_test_vectors.md. -/

/-- V-RM-1. -/
theorem test_clear : outcome (withCommand 0xA7 0x0 0x00) = some (0x00, none, [0x00]) := by decide
/-- V-RM-2. -/
theorem test_init : outcome (withCommand 0xFF 0x1 0x00) = some (0x00, none, [0x00]) := by decide
/-- V-RM-3. -/
theorem test_setState_0 : outcome (withCommand 0xFF 0x2 0x00) = some (0xFE, none, [0xFE]) := by decide
/-- V-RM-4. -/
theorem test_setState_1 : outcome (withCommand 0xFE 0x2 0x01) = some (0xFF, none, [0xFF]) := by decide
/-- V-RM-7. -/
theorem test_setColor_replaces : outcome (withCommand 0xFF 0x3 0x02) = some (0xF5, none, [0xF5]) := by decide
/-- V-RM-9. -/
theorem test_setColor_masks : outcome (withCommand 0x00 0x3 0x08) = some (0x00, none, [0x00]) := by decide
/-- V-RM-13. -/
theorem test_setBrightness_truncates : outcome (withCommand 0x0F 0x4 0x1F) = some (0xFF, none, [0xFF]) := by
  decide
/-- V-RM-15. -/
theorem test_setBrightness_masks : outcome (withCommand 0xFF 0x4 0x10) = some (0x0F, none, [0x0F]) := by decide
/-- V-RM-28. -/
theorem test_stateOn : outcome (withCommand 0xA4 0x5 0xFF) = some (0xA5, none, [0xA5]) := by decide
/-- V-RM-21. -/
theorem test_stateOff : outcome (withCommand 0xA5 0x6 0x00) = some (0xA4, none, [0xA4]) := by decide
/-- V-RM-22. -/
theorem test_colorRed : outcome (withCommand 0xFF 0x7 0x00) = some (0xF3, none, [0xF3]) := by decide
/-- V-RM-23. -/
theorem test_colorGreen : outcome (withCommand 0xFF 0x8 0x00) = some (0xF5, none, [0xF5]) := by decide
/-- V-RM-24. -/
theorem test_colorBlue : outcome (withCommand 0xFF 0x9 0x00) = some (0xF9, none, [0xF9]) := by decide
/-- V-RM-25. -/
theorem test_brightnessMin : outcome (withCommand 0xF5 0xA 0x00) = some (0x05, none, [0x05]) := by decide
/-- V-RM-26. -/
theorem test_brightnessMax : outcome (withCommand 0x04 0xB 0x00) = some (0xF4, none, [0xF4]) := by decide
/-- V-MD-3. -/
theorem test_on : outcome (withMessage 0xFE 1 [0x00]) = some (0xFF, some .success, [0xFF]) := by decide
/-- V-MD-4. -/
theorem test_off : outcome (withMessage 0xFF 1 [0x01]) = some (0xFE, some .success, [0xFE]) := by decide
/-- V-MD-14. -/
theorem test_ledSettings :
    outcome (withMessage 0x01 3 [0x02, 0xFA, 0x35]) = some (0x55, some .success, [0x05, 0x55]) := by decide
/-- V-MD-21. -/
theorem test_ledSettings_two_writes :
    outcome (withMessage 0x5B 3 [0x02, 0x01, 0x0C]) = some (0xC3, some .success, [0x53, 0xC3]) := by decide
/-- V-MD-1. -/
theorem test_empty : outcome (withMessage 0xA5 0 []) = some (0xA5, some (.error .empty), []) := by decide
/-- V-MD-6. -/
theorem test_trailing_on :
    outcome (withMessage 0xA5 2 [0x00, 0x00]) = some (0xA5, some (.error .trailingBytes), []) := by decide
/-- V-MD-9. -/
theorem test_missing :
    outcome (withMessage 0xA5 2 [0x02, 0x07]) = some (0xA5, some (.error .missingParameters), []) := by decide
/-- V-MD-15. -/
theorem test_trailing_settings : outcome (withMessage 0xA5 4 [0x02, 0x07, 0x0F, 0x00]) =
    some (0xA5, some (.error .trailingBytes), []) := by decide
/-- V-MD-19. -/
theorem test_unknown_opcode_wins : outcome (withMessage 0xA5 5 [0x80, 0x00, 0x00, 0x00, 0x00]) =
    some (0xA5, some (.error .invalidOpCode), []) := by decide
/-- V-RS-2. -/
theorem test_reset_event : outcome (about 0xFB .reset) = some (0x00, none, [0x00]) := by decide
/-- P6 step 3. -/
theorem test_host_write : outcome (about 0x01 (.writeCell 0xF0)) = some (0xF0, none, [0xF0]) := by decide

/-- V-EN-4, V-EN-9 and V-EN-11. -/
theorem test_encode_and_get :
    encodeFields 0 5 10 = 0xAA ∧ getState 0xC3 = 1 ∧ getColor 0xC3 = 1 ∧ getBrightness 0xC3 = 12 ∧
      getColor 0xFA = 5 ∧ getBrightness 0xFA = 15 := by decide

/-- The first step from reset runs the placed word: LED_SETTINGS 2, 5 over 0x00 (V-MD-10, R64). -/
theorem test_placed_message :
    outcome (State.reset.withFetchWord 24 0x020205) = some (0x54, some .success, [0x00, 0x04, 0x54]) := by decide
/-- The first step from reset runs the placed command word: SET_COLOR 0xFF over 0x00 (V-RM-8, R64). -/
theorem test_placed_command :
    outcome (State.reset.withFetchWord 16 0x3FF) = some (0x0E, none, [0x00, 0x0E]) := by decide

/-! Witnesses: for each statement with hypotheses, a state and operands that meet them together, and for a statement with
several clauses one for each, at a boundary of its range. -/

theorem witness_OnlyIgnoredBitsAreLostInDecoding :
    decode (.message 3 [0x02, 0xFA, 0x35, 0x77]) = .instr (.ledSettings 2 5) ∧
      decode (.command 0x5 0xFF) = .instr .stateOn := by decide

theorem witness_RefusedExactlyWhenADutyIsBroken :
    (withCommand 0x00 0xB 0x00).pending = [.operation (.command 0xB 0x00)] ∧
      (Operation.command 0xB 0x00).wellFormed = true ∧
      (withMessage 0x00 1 []).pending = [.operation (.message 1 [])] ∧
      (Operation.message 1 []).wellFormed = false := by decide

theorem witness_RefusalsNameTheBrokenDuty :
    ((withCommand 0x00 0xC 0x00).pending = [.operation (.command 0xC 0x00)] ∧ 12 ≤ (0xC : BitVec 4).toNat) ∧
      ((withCommand 0x00 0x2 0x02).pending = [.operation (.command 0x2 0x02)] ∧ 2 ≤ (0x02 : Byte).toNat) ∧
      (Presents (withMessage 0x00 3 [0x02, 0x01]) 3 [0x02, 0x01] [] ∧
        ([0x02, 0x01] : List Byte).length < (3 : Byte).toNat) := by
  simp only [Presents]
  decide

theorem witness_StepRunsTheDecodedInstruction :
    (withMessage 0x00 1 [0x00]).pending = [.operation (.message 1 [0x00])] ∧
      decode (.message 1 [0x00]) = .instr .on := by decide

theorem witness_PlacedWordRunsNext : decodeTableWord 24 0x020205 = some (.ledSettings 2 5) := by decide

theorem witness_NoMoveLeftChangesNothing : State.reset.pending = [] := by decide

theorem witness_CommandsProduceNoResult : isMessage .brightnessMax = false := by decide

theorem witness_BitsOutsideTheFieldSurvive : (about 0xA5 .reset).pending = [.reset] := by decide

theorem witness_FieldsAreIndependent :
    fieldMask .on &&& fieldMask (.ledSettings 2 5) = 0 ∧ fieldMask .colorRed = fieldMask .colorBlue := by decide

theorem witness_MessageOutcomeTable :
    (Presents (withMessage 0xA5 0 []) 0 [] [] ∧ (0 : Byte).toNat ≤ ([] : List Byte).length) ∧
      (Presents (withMessage 0xA5 1 [0x00]) 1 [0x00] [] ∧ (1 : Byte).toNat ≤ ([0x00] : List Byte).length) ∧
      (Presents (withMessage 0xA5 2 [0x00, 0x00]) 2 [0x00, 0x00] [] ∧ 2 ≤ (2 : Byte).toNat) ∧
      (Presents (withMessage 0xA5 1 [0x01]) 1 [0x01] [] ∧ (1 : Byte).toNat ≤ ([0x01] : List Byte).length) ∧
      (Presents (withMessage 0xA5 2 [0x01, 0x09]) 2 [0x01, 0x09] [] ∧ 2 ≤ (2 : Byte).toNat) ∧
      (Presents (withMessage 0xA5 1 [0x02]) 1 [0x02] [] ∧ 1 ≤ (1 : Byte).toNat ∧ (1 : Byte).toNat ≤ 2) ∧
      (Presents (withMessage 0xA5 2 [0x02, 0x07]) 2 [0x02, 0x07] [] ∧ (2 : Byte).toNat ≤ 2) ∧
      (Presents (withMessage 0xA5 3 [0x02, 0x07, 0x0F]) 3 [0x02, 0x07, 0x0F] [] ∧
        (3 : Byte).toNat ≤ ([0x02, 0x07, 0x0F] : List Byte).length) ∧
      (Presents (withMessage 0xA5 4 [0x02, 0x07, 0x0F, 0x00]) 4 [0x02, 0x07, 0x0F, 0x00] [] ∧
        4 ≤ (4 : Byte).toNat) ∧
      (Presents (withMessage 0xA5 1 [0x03]) 1 [0x03] [] ∧ 1 ≤ (1 : Byte).toNat ∧ 3 ≤ (0x03 : Byte).toNat) := by
  simp only [Presents]
  decide

theorem witness_MessageFollowsTheAlgorithm :
    Presents (withMessage 0xA5 3 [0x02, 0x07, 0x0F]) 3 [0x02, 0x07, 0x0F] [] ∧
      (3 : Byte).toNat ≤ ([0x02, 0x07, 0x0F] : List Byte).length := by
  simp only [Presents]
  decide

theorem witness_OnMessageSetsState :
    Presents (withMessage 0xA5 1 [0x00, 0x44]) 1 [0x00, 0x44] [] ∧
      (Presents (withMessage 0xA5 2 [0x00, 0x00]) 2 [0x00, 0x00] [] ∧
        (2 : Byte).toNat ≤ ([0x00] : List Byte).length + 1 ∧ 2 ≤ (2 : Byte).toNat) := by
  simp only [Presents]
  decide

theorem witness_OffMessageClearsState :
    Presents (withMessage 0xA5 1 [0x01]) 1 [0x01] [] ∧
      (Presents (withMessage 0xA5 2 [0x01, 0x09]) 2 [0x01, 0x09] [] ∧
        (2 : Byte).toNat ≤ ([0x09] : List Byte).length + 1 ∧ 2 ≤ (2 : Byte).toNat) := by
  simp only [Presents]
  decide

theorem witness_LedSettingsMessageSetsColorThenBrightness :
    Presents (withMessage 0xA5 3 [0x02, 0x07, 0x0F]) 3 [0x02, 0x07, 0x0F] [] ∧
      (Presents (withMessage 0xA5 2 [0x02, 0x07]) 2 [0x02, 0x07] [] ∧
        (2 : Byte).toNat ≤ ([0x07] : List Byte).length + 1 ∧ 1 ≤ (2 : Byte).toNat ∧ (2 : Byte).toNat < 3) ∧
      (Presents (withMessage 0xA5 4 [0x02, 0x07, 0x0F, 0x00]) 4 [0x02, 0x07, 0x0F, 0x00] [] ∧
        (4 : Byte).toNat ≤ ([0x07, 0x0F, 0x00] : List Byte).length + 1 ∧ 3 < (4 : Byte).toNat) := by
  simp only [Presents]
  decide

theorem witness_UnknownOpcodeIsInvalid :
    Presents (withMessage 0xA5 1 [0x03]) 1 [0x03] [] ∧ (1 : Byte).toNat ≤ ([] : List Byte).length + 1 ∧
      1 ≤ (1 : Byte).toNat ∧ 3 ≤ (0x03 : Byte).toNat := by
  simp only [Presents]
  decide

/-- The premises of the four statements about any supplied message, at each kind of Result. -/
theorem witness_EachErrorHasExactlyItsCause :
    (Presents (withMessage 0xA5 0 []) 0 [] [] ∧ (0 : Byte).toNat ≤ ([] : List Byte).length) ∧
      (outcome (withMessage 0xA5 1 [0xFF])).map (fun x => x.2.1) = some (some (.error .invalidOpCode)) ∧
      (outcome (withMessage 0xA5 2 [0x00, 0x00])).map (fun x => x.2.1) = some (some (.error .trailingBytes)) ∧
      (outcome (withMessage 0xA5 1 [0x02])).map (fun x => x.2.1) = some (some (.error .missingParameters)) := by
  simp only [Presents]
  decide

theorem witness_RejectedMessageNeverMutates :
    Presents (withMessage 0xA5 1 [0x02]) 1 [0x02] [] ∧ (1 : Byte).toNat ≤ ([0x02] : List Byte).length ∧
      (outcome (withMessage 0xA5 1 [0x02])).map (fun x => x.2.1) ≠ some (some .success) ∧
      (outcome (withMessage 0xA5 1 [0x00])).map (fun x => x.2.1) = some (some .success) := by
  simp only [Presents]
  decide

theorem witness_OneResultByPriority :
    Presents (withMessage 0xA5 5 [0xFF, 0, 0, 0, 0]) 5 [0xFF, 0, 0, 0, 0] [] ∧
      (5 : Byte).toNat ≤ ([0xFF, 0, 0, 0, 0] : List Byte).length := by
  simp only [Presents]
  decide

theorem witness_ResultPortTellsTheResultsApart :
    ResultCodes.defaults.admissible = true ∧
      (Presents (withMessage 0xA5 1 [0x00]) 1 [0x00] [] ∧ (1 : Byte).toNat ≤ ([0x00] : List Byte).length) := by
  simp only [Presents]
  decide

theorem witness_RegisterNeverChangesTheResult : ∃ t, step (withMessage 0xA5 1 [0x00]) = .next t := ⟨_, rfl⟩

theorem witness_PastOutputsAreNeverReadBack :
    (∃ t, step (withMessage 0xA5 1 [0x00]) = .next t) ∧ (withMessage 0xA5 1 [0x00]).pending ≠ [] ∧
      ∃ r, step (withCommand 0xA5 0xC 0x00) = .refused r := ⟨⟨_, rfl⟩, by decide, ⟨_, rfl⟩⟩

theorem witness_RepeatedMessageIsIdempotent :
    Presents ((withMessage 0x9C 3 [0x02, 0x0B, 0x17]).setPending
        [.operation (.message 3 [0x02, 0x0B, 0x17]), .operation (.message 3 [0x02, 0x0B, 0x17])])
      3 [0x02, 0x0B, 0x17] [.operation (.message 3 [0x02, 0x0B, 0x17])] ∧
      (3 : Byte).toNat ≤ ([0x02, 0x0B, 0x17] : List Byte).length := by
  simp only [Presents]
  decide

theorem witness_MessageReadsOnlyItsBytes :
    Presents (withMessage 0xA5 4 [0x02, 0x07, 0x0F, 0x00]) 4 [0x02, 0x07, 0x0F, 0x00] [] ∧
      (4 : Byte).toNat ≤ ([0x02, 0x07, 0x0F, 0x00] : List Byte).length := by
  simp only [Presents]
  decide

theorem witness_ResetEventIsInit : (about 0xFB .reset).pending = [.reset] := by decide

theorem witness_DecodedOutputsAreTheFields :
    (about 0x55 .readStateOut).pending = [.readStateOut] ∧ (about 0x55 .readColorOut).pending = [.readColorOut] ∧
      (about 0x55 .readBrightnessOut).pending = [.readBrightnessOut] := by decide

theorem witness_HostReadsTheLastValue : (about 0x55 .readCell).pending = [.readCell] := by decide

theorem witness_OperationsMergeIntoTheHostsValue :
    (about 0x01 (.writeCell 0xF0)).pending = [.writeCell 0xF0] ∧
    ((about 0x01 .reset).setPending [.writeCell 0xF0, .operation (.message 3 [0x02, 0x01, 0x00])]).pending =
        [.writeCell 0xF0, .operation (.message 3 [0x02, 0x01, 0x00])] ∧
      decode (.message 3 [0x02, 0x01, 0x00]) = .instr (.ledSettings 1 0) := by decide

theorem witness_OnlyWritesChangeTheRegister : ∃ t, step (about 0x01 (.writeCell 0xF0)) = .next t := ⟨_, rfl⟩

theorem witness_StepKeepsTheRecordCoherent :
    (withMessage 0xA5 1 [0x00]).Coherent ∧ ∃ t, step (withMessage 0xA5 1 [0x00]) = .next t :=
  ⟨⟨0xA5, rfl⟩, ⟨_, rfl⟩⟩

theorem witness_StepKeepsResultShown :
    (withMessage 0xA5 1 [0x00]).ResultShown ∧ ∃ t, step (withMessage 0xA5 1 [0x00]) = .next t :=
  ⟨fun r => by simp [withMessage, about], ⟨_, rfl⟩⟩

theorem witness_DutifulRunComesToItsEnd :
    ((about 0x00 .reset).setPending
      [.reset, .operation (.message 2 [0x02, 0x07]), .operation (.command 0xB 0xFF), .writeCell 0xF0,
        .readColorOut]).dutiful = true := by decide

theorem witness_RunResultsDoNotDependOnPowerUp :
    ∃ t, Sys2Proof.core.run 1 (withMessage 0xA5 1 [0x00]) = .next t := ⟨_, rfl⟩

theorem witness_EveryRunFromPowerUpIsCoherent :
    ∃ t, Sys2Proof.core.run 2 ((State.powerUp.setLedreg 0x3C).setPending
      [.operation (.message 1 [0x00]), .readCell]) = .next t := ⟨_, rfl⟩
end

/-! PROOFS. The masked merge of R7. -/

namespace Sys2Proof.Machine

/-- R7's outside bits: the merge keeps `old` where the mask is 0. -/
theorem merge_getLsbD_of_mask_false (old mask v : Byte) (n : Nat) (h : n < 8) (hm : mask.getLsbD n = false) :
    (merge old mask v).getLsbD n = old.getLsbD n := by
  rw [merge_getLsbD old mask v n h, hm, if_neg Bool.false_ne_true]

/-- R7's inside bits: the merge takes `v` where the mask is 1. -/
theorem merge_getLsbD_of_mask_true (old mask v : Byte) (n : Nat) (h : n < 8) (hm : mask.getLsbD n = true) :
    (merge old mask v).getLsbD n = v.getLsbD n := by
  rw [merge_getLsbD old mask v n h, hm, if_pos rfl]

/-- Settles O9: the formula is `merge`'s definition; each bit is `old`'s or `v`'s as its mask bit says. -/
theorem maskedMergeBitByBit : Obligations.MaskedMergeBitByBit := fun old mask v =>
  ⟨rfl, fun n h => ⟨merge_getLsbD_of_mask_false old mask v n h, merge_getLsbD_of_mask_true old mask v n h⟩⟩

end Sys2Proof.Machine

/-! PROOFS. RESULT is driven exactly at the end of a transaction (R17, R21, R120). -/

namespace Sys2Proof.Machine

/-- An event delivers a Result exactly when it is the end of a transaction with that Result. -/
theorem result?_eq_some_iff (e : Event) (r : Result) : e.result? = some r ↔ e = .result r := by
  cases e <;> simp [Event.result?]

/-- The effect's last event, which it has, delivers exactly the Result that the effect leaves on RESULT. -/
def Effect.ShowsResult (e : Effect) : Prop := e.events.getLast?.map Event.result? = some e.result

theorem showsResult_iff (e : Effect) :
    e.ShowsResult ↔ ∃ last, e.events.getLast? = some last ∧ last.result? = e.result :=
  Option.map_eq_some_iff

/-- What the record held before does not change its last event. -/
theorem Effect.ShowsResult.getLast?_append {e : Effect} (h : e.ShowsResult) (es : List Event) :
    (es ++ e.events).getLast? = e.events.getLast? := by
  obtain ⟨last, hlast, -⟩ := (showsResult_iff e).mp h
  simp [List.getLast?_append, hlast]

/-- Buffer reads before an effect leave its last event as it is. -/
theorem Effect.ShowsResult.prepend {e : Effect} (h : e.ShowsResult) (reads : List Event) :
    Effect.ShowsResult { e with events := reads ++ e.events } := by
  simpa only [Effect.ShowsResult, h.getLast?_append] using h

/-- A message ends with its Result; a command ends with its write. -/
theorem instrEffect_showsResult (i : Instr) (old : Byte) : (instrEffect i old).ShowsResult := by
  cases i <;> rfl

/-- Of all moves, exactly the messages end with a Result. -/
theorem moveEffect_showsResult {m : HostMove} {old : Byte} {e : Effect} (h : moveEffect m old = some e) :
    e.ShowsResult := by
  cases m with
  | operation o =>
    cases hd : decode o with
    | instr i =>
      simp only [moveEffect, hd, Option.some.injEq] at h
      subst h
      exact (instrEffect_showsResult i old).prepend _
    | error kind =>
      simp only [moveEffect, hd, Option.some.injEq] at h
      subst h
      have hraise : Effect.ShowsResult ⟨old, [.result (.error kind)], some (.error kind)⟩ := rfl
      exact hraise.prepend _
    | refused duty => simp [moveEffect, hd] at h
  | _ => cases h; rfl

/-- An effect that ends with what it leaves on RESULT establishes the invariant, whatever held before. -/
theorem State.after_resultShown {e : Effect} (h : e.ShowsResult) (s : State) : (s.after e).ResultShown := by
  intro r
  obtain ⟨last, hlast, hresult⟩ := (showsResult_iff e).mp h
  rw [after_result, after_trace, h.getLast?_append, hlast, Option.some.injEq, ← hresult]
  exact result?_eq_some_iff last r

/-- Settles O47: a step without a move changes nothing; every other step leaves on RESULT what its last event
delivers. -/
theorem stepKeepsResultShown : Obligations.StepKeepsResultShown := by
  intro s t hs hstep
  rcases step_cases hstep with ⟨-, rfl⟩ | ⟨m, ms, e, -, he, rfl⟩
  · exact hs
  · exact State.after_resultShown (moveEffect_showsResult he) _

end Sys2Proof.Machine

/-! PROOFS. Every register value is reachable by two messages (R14). -/

namespace Sys2Proof.Machine

/-- Writing the three fields one after another leaves nothing of the old register. -/
theorem merged_fields_eq_encodeFields (on : StateBits) (c : ColorBits) (b : BrightnessBits) (old : Byte) :
    brightnessMerged (zext8 b) (colorMerged (zext8 c) (stateMerged on old)) = encodeFields on c b := by
  refine byte_ext fun n h => ?_
  rw [brightnessMerged_eq, colorMerged_eq, stateMerged_eq, encodeFields_eq]
  interval_cases n <;> simp [Const.brightnessWidth]

/-- A register is the encoding of its decoded fields (R88). -/
theorem encodeFields_get (v : Byte) : encodeFields (getState v) (getColor v) (getBrightness v) = v := by
  refine byte_ext fun n h => ?_
  rw [encodeFields_eq, getState_eq, getColor_eq, getBrightness_eq]
  interval_cases n <;> simp

/-- The message that sets the State field to `on`: ON or OFF. -/
def stateMessage (on : StateBits) : Instr := if on = 1 then .on else .off

theorem isMessage_stateMessage (on : StateBits) : Claims.isMessage (stateMessage on) = true := by
  unfold stateMessage
  split <;> rfl

theorem instrEffect_stateMessage (on : StateBits) (old : Byte) :
    instrEffect (stateMessage on) old = rwEffect old (stateMerged on old) (some .success) := by
  have hbit : on = 0 ∨ on = 1 := by revert on; decide
  rcases hbit with rfl | rfl <;> rfl

/-- Settles O23: ON or OFF gives the value's bit 0, then LED_SETTINGS its other two fields. -/
theorem everyRegisterValueIsReachable : Obligations.EveryRegisterValueIsReachable := by
  intro s v
  refine ⟨stateMessage (getState v), .ledSettings (getColor v) (getBrightness v), _, _,
    isMessage_stateMessage _, rfl, exec_eq _ _, exec_eq _ _, ?_⟩
  rw [instrEffect_stateMessage]
  calc brightnessMerged (zext8 (getBrightness v))
          (colorMerged (zext8 (getColor v)) (stateMerged (getState v) s.ledreg))
      = encodeFields (getState v) (getColor v) (getBrightness v) := merged_fields_eq_encodeFields ..
    _ = v := encodeFields_get v

end Sys2Proof.Machine

/-! PROOFS. The step of an operation that decodes to an instruction (R16, R145). -/

namespace Sys2Proof.Machine

/-- Such a step is the instruction's meaning, after the operation's reads. -/
theorem step_of_instr {s : State} {o : Operation} {i : Instr} {rest : List HostMove}
    (h : s.pending = .operation o :: rest) (hd : decode o = .instr i) :
    step s = exec i ((s.setPending rest).fetchOperands o) := by
  simp [step, h, performMove, performOperation, hd]

/-- Settles O6: the operands' fetch adds only buffer reads to the record. -/
theorem stepRunsTheDecodedInstruction : Obligations.StepRunsTheDecodedInstruction := by
  intro s o i rest hp hd
  obtain ⟨reads, hfetch, hreads⟩ := (s.setPending rest).fetchOperands_eq o
  refine ⟨reads, ?_, hreads⟩
  rw [step_of_instr hp hd, hfetch]
  rfl

end Sys2Proof.Machine

/-! PROOFS. The decoded outputs (R12, R85 to R87) and the state after reset (R15, R141). -/

namespace Sys2Proof.Machine

/-- Settles O40: the reset state is a constant. -/
theorem resetLeavesZero : Obligations.ResetLeavesZero := by
  unfold Obligations.ResetLeavesZero
  decide

/-- STATE_OUT is register bit 0. -/
theorem stateOut_getLsbD (s : State) : s.stateOut.getLsbD 0 = s.ledreg.getLsbD 0 := by
  rw [State.stateOut, getState_eq]
  simp

/-- COLOR_OUT is register bits 3:1. -/
theorem colorOut_getLsbD (s : State) (n : Nat) (h : n < 3) :
    s.colorOut.getLsbD n = s.ledreg.getLsbD (n + 1) := by
  rw [State.colorOut, getColor_eq]
  simp [h, Nat.add_comm]

/-- BRIGHTNESS_OUT is register bits 7:4. -/
theorem brightnessOut_getLsbD (s : State) (n : Nat) (h : n < 4) :
    s.brightnessOut.getLsbD n = s.ledreg.getLsbD (n + 4) := by
  rw [State.brightnessOut, getBrightness_eq]
  simp [h, Nat.add_comm]

/-- A move whose effect is to take an output reads the cell once, writes nothing and keeps LEDREG (R33). -/
theorem step_of_output {s : State} {m : HostMove} {rest : List HostMove} {out : Event}
    (h : s.pending = m :: rest)
    (he : moveEffect m s.ledreg = some ⟨s.ledreg, [.cellRead .block s.ledreg, out], none⟩) :
    ∃ t, step s = .next t ∧ t.ledreg = s.ledreg ∧ t.pending = rest ∧
      t.trace = s.trace ++ [.cellRead .block s.ledreg, out] :=
  ⟨_, step_of_effect h he, rfl, rfl, rfl⟩

/-- Settles O41: the bits by the layout of each getter, and each output by one read. -/
theorem decodedOutputsAreTheFields : Obligations.DecodedOutputsAreTheFields := fun s =>
  ⟨stateOut_getLsbD s, colorOut_getLsbD s, brightnessOut_getLsbD s, fun _ =>
    ⟨fun h => step_of_output h rfl, fun h => step_of_output h rfl, fun h => step_of_output h rfl⟩⟩

end Sys2Proof.Machine

/-! PROOFS. A move's events, replayed from the register's old value, give its new value (R31, R43). -/

namespace Sys2Proof.Machine

/-! What the reads of a message's bytes leave as it is (R37). -/

/-- Presenting an operation records nothing but reads of its message's bytes, each the buffer's. -/
theorem mem_fetchEvents {o : Operation} {e : Event} (h : e ∈ fetchEvents o) :
    ∃ length buf n v, o = .message length buf ∧ n ∈ bufferOffsets length buf ∧ buf[n]? = some v ∧
      e = .bufRead n v := by
  cases o with
  | command cmd arg => cases h
  | message length buf =>
    obtain ⟨n, hn, hmap⟩ := List.mem_filterMap.mp h
    obtain ⟨v, hv, rfl⟩ := Option.map_eq_some_iff.mp hmap
    exact ⟨length, buf, n, v, rfl, hn, hv, rfl⟩

/-- An observation that sees no buffer read sees nothing of an operation's presentation. -/
theorem filterMap_fetchEvents {α : Type} {f : Event → Option α} (hf : ∀ n v, f (.bufRead n v) = none)
    (o : Operation) : (fetchEvents o).filterMap f = [] := by
  refine List.filterMap_eq_nil_iff.mpr fun e he => ?_
  obtain ⟨-, -, n, v, -, -, -, rfl⟩ := mem_fetchEvents he
  exact hf n v

@[simp] theorem cellReads_fetchEvents (o : Operation) : cellReads (fetchEvents o) = [] :=
  filterMap_fetchEvents (fun _ _ => rfl) o

@[simp] theorem cellWrites_fetchEvents (o : Operation) : cellWrites (fetchEvents o) = [] :=
  filterMap_fetchEvents (fun _ _ => rfl) o

@[simp] theorem cellAccesses_fetchEvents (o : Operation) : cellAccesses (fetchEvents o) = [] := by
  refine List.filter_eq_nil_iff.mpr fun e he => ?_
  obtain ⟨-, -, n, v, -, -, -, rfl⟩ := mem_fetchEvents he
  exact Bool.false_ne_true

/-- Buffer reads leave the cell of a replay as it is. -/
theorem replay_bufReads {reads : List Event} (h : ∀ e ∈ reads, ∃ n w, e = .bufRead n w) (v : Byte) :
    replay v reads = some v := by
  induction reads with
  | nil => rfl
  | cons e reads ih =>
    obtain ⟨⟨n, w, rfl⟩, hreads⟩ := List.forall_mem_cons.mp h
    exact ih hreads

theorem replay_fetchEvents_append (v : Byte) (o : Operation) (es : List Event) :
    replay v (fetchEvents o ++ es) = replay v es := by
  have hreads : replay v (fetchEvents o) = some v := replay_bufReads (fun e he => by
    obtain ⟨-, -, n, w, -, -, -, rfl⟩ := mem_fetchEvents he
    exact ⟨n, w, rfl⟩) v
  rw [replay_append, hreads, Option.bind_some]

/-! What an effect's events say of the cell. -/

theorem rwEffect_replay (old new : Byte) (r : Option Result) :
    replay old (rwEffect old new r).events = some new := by
  cases r <;> simp [rwEffect]

/-- Each read of an instruction returns the value last written, and its last write leaves the register. -/
theorem instrEffect_replay (i : Instr) (old : Byte) :
    replay old (instrEffect i old).events = some (instrEffect i old).ledreg := by
  cases i with
  | clear | init => rfl
  | ledSettings c b => simp [instrEffect]
  | _ => exact rwEffect_replay ..

/-- The same for every move of the host. -/
theorem moveEffect_replay {m : HostMove} {old : Byte} {e : Effect} (h : moveEffect m old = some e) :
    replay old e.events = some e.ledreg := by
  cases m with
  | operation o =>
    cases hd : decode o with
    | instr i =>
      simp only [moveEffect, hd, Option.some.injEq] at h
      subst h
      rw [replay_fetchEvents_append, instrEffect_replay]
    | error kind =>
      simp only [moveEffect, hd, Option.some.injEq] at h
      subst h
      rw [replay_fetchEvents_append, replay_result, replay_nil]
    | refused duty => simp [moveEffect, hd] at h
  | _ => cases h; simp [clearEffect]

/-- A step extends a record that explains the register to one that still does, from the same power-up value. -/
theorem step_keeps_replay {u : Byte} {s t : State} (hs : replay u s.trace = some s.ledreg)
    (h : step s = .next t) : replay u t.trace = some t.ledreg := by
  rcases step_cases h with ⟨-, rfl⟩ | ⟨m, ms, e, -, he, rfl⟩
  · exact hs
  · calc replay u (s.trace ++ e.events)
        = replay s.ledreg e.events := by rw [replay_append, hs, Option.bind_some]
      _ = some e.ledreg := moveEffect_replay he

/-- Settles O45: the step keeps the power-up value that explains the record. -/
theorem stepKeepsTheRecordCoherent : Obligations.StepKeepsTheRecordCoherent := fun _ _ ⟨u, hu⟩ hstep =>
  ⟨u, step_keeps_replay hu hstep⟩

theorem powerUp_resultShown (u : Byte) (moves : List HostMove) :
    ((State.powerUp.setLedreg u).setPending moves).ResultShown := fun r => by
  simp [State.powerUp]

/-- Settles O50: both invariants hold at power-up, and every step keeps them. -/
theorem everyRunFromPowerUpIsCoherent : Obligations.EveryRunFromPowerUpIsCoherent := fun n u moves t hrun =>
  ⟨run_induction (P := fun s => replay u s.trace = some s.ledreg) (fun _ _ => step_keeps_replay) n _ t rfl hrun,
    run_induction (P := State.ResultShown) stepKeepsResultShown n _ t (powerUp_resultShown u moves) hrun⟩

end Sys2Proof.Machine

/-! PROOFS. What a record that replays says of its writes and of its first read (R31, R32, R36). -/

namespace Sys2Proof.Machine

/-- After one event, the rest of the record replays from what the event wrote, or from the same value. -/
theorem replay_tail {v r : Byte} {e : Event} {es : List Event} (h : replay v (e :: es) = some r) :
    replay (e.written?.getD v) es = some r := by
  cases e with
  | cellWrite | bufRead | result => exact h
  | cellRead | stateOut | colorOut | brightnessOut => exact (Option.ite_none_right_eq_some.mp h).2

/-- A replay ends with the last value written, or with the first value where nothing is written. -/
theorem replay_last_write {v r : Byte} {es : List Event} (h : replay v es = some r) :
    r = (cellWrites es).getLast?.getD v := by
  induction es generalizing v with
  | nil => exact (Option.some.inj h).symm
  | cons e es ih =>
    have htail := ih (replay_tail h)
    cases e with
    | cellWrite a w => rwa [cellWrites_cellWrite, List.getLast?_cons]
    | _ => exact htail

/-- In a record that replays from `v`, a read that no write precedes returns `v`. -/
theorem replay_first_read {v r w : Byte} {a : Agent} {es : List Event} (h : replay v es = some r)
    (hfirst : (cellAccesses es).head? = some (.cellRead a w)) : w = v := by
  induction es with
  | nil => cases hfirst
  | cons e es ih =>
    have htail := replay_tail h
    cases e with
    | cellRead b x =>
      cases hfirst
      exact (Option.ite_none_right_eq_some.mp h).1
    | cellWrite b x => cases hfirst
    | _ => exact ih htail hfirst

/-- Settles O44: the events of a step replay from the old register to the new one. -/
theorem onlyWritesChangeTheRegister : Obligations.OnlyWritesChangeTheRegister := by
  intro s t h
  rcases step_cases h with ⟨-, rfl⟩ | ⟨m, ms, e, -, he, rfl⟩
  · exact ⟨[], (List.append_nil _).symm, rfl⟩
  · exact ⟨e.events, rfl, replay_last_write (moveEffect_replay he)⟩

end Sys2Proof.Machine

/-! PROOFS. The host's own accesses, and the operation that follows a host write (R31, R36, R71, R150). -/

namespace Sys2Proof.Machine

open Sys2Proof.Claims

/-- A merge keeps every bit that its mask does not name (R7). -/
theorem merge_and_of_disjoint {old mask v keep : Byte} (h : mask &&& keep = 0) :
    merge old mask v &&& keep = old &&& keep := by
  refine byte_ext fun n hn => ?_
  have hbit : (mask.getLsbD n && keep.getLsbD n) = false := by
    rw [← BitVec.getLsbD_and, h]
    exact BitVec.getLsbD_zero
  rw [BitVec.getLsbD_and, BitVec.getLsbD_and, merge_getLsbD _ _ _ _ hn]
  cases hm : mask.getLsbD n with
  | false => rfl
  | true =>
    have hk : keep.getLsbD n = false := by simpa [hm] using hbit
    simp [hk]

/-- An instruction keeps the bits outside its field (R71). -/
theorem instrEffect_outside_field (i : Instr) (old : Byte) :
    (instrEffect i old).ledreg &&& ~~~(fieldMask i) = old &&& ~~~(fieldMask i) := by
  cases i with
  | clear | init => simp [fieldMask]
  | ledSettings c b =>
    calc brightnessMerged (zext8 b) (colorMerged (zext8 c) old) &&& ~~~0xFE
        = colorMerged (zext8 c) old &&& ~~~0xFE := merge_and_of_disjoint (by decide)
      _ = old &&& ~~~0xFE := merge_and_of_disjoint (by decide)
  | on | off | setState | stateOn | stateOff => exact merge_and_of_disjoint (keep := ~~~0x01) (by decide)
  | setColor | colorRed | colorGreen | colorBlue => exact merge_and_of_disjoint (keep := ~~~0x0E) (by decide)
  | setBrightness | brightnessMin | brightnessMax => exact merge_and_of_disjoint (keep := ~~~0xF0) (by decide)

/-- Settles O42: a host read has the effect of one read and keeps the register. -/
theorem hostReadsTheLastValue : Obligations.HostReadsTheLastValue := fun _ _ h =>
  ⟨_, step_of_effect h rfl, rfl, rfl, rfl⟩

/-- The step of a host write: the cell holds `v`, and the moves that follow are left (R36). -/
theorem step_of_writeCell {s : State} {v : Byte} {rest : List HostMove} (h : s.pending = .writeCell v :: rest) :
    step s = .next ((s.setPending rest).after ⟨v, [.cellWrite .host v], none⟩) :=
  step_of_effect h rfl

/-- Settles O43: the operation's effect is that of its instruction on the host's value. -/
theorem operationsMergeIntoTheHostsValue : Obligations.OperationsMergeIntoTheHostsValue := by
  refine ⟨fun s v rest h => ⟨_, step_of_writeCell h, rfl, rfl, rfl⟩, fun s v o i rest h hd => ?_⟩
  have he : moveEffect (.operation o) v =
      some { instrEffect i v with events := fetchEvents o ++ (instrEffect i v).events } := by
    simp [moveEffect, hd]
  exact ⟨_, _, _, step_of_writeCell h, rfl, rfl, rfl, step_of_effect rfl he, rfl,
    instrEffect_outside_field i v, fun w hw => replay_first_read (moveEffect_replay he) hw⟩

end Sys2Proof.Machine

/-! PROOFS. The accesses of an instruction (R33) and the bytes that a message reads (R37). -/

namespace Sys2Proof.Machine

open Sys2Proof.Claims

theorem rwEffect_cellAccesses (old new : Byte) (r : Option Result) :
    cellAccesses (rwEffect old new r).events = [.cellRead .block old, .cellWrite .block new] := by
  cases r <;> rfl

/-- An instruction's accesses to the cell are those of R33's table. -/
theorem instrEffect_accessKinds (i : Instr) (old : Byte) :
    (cellAccesses (instrEffect i old).events).map (fun e => e.written?.isSome) = accessKinds i := by
  cases i <;> rfl

/-- An instruction's accesses to the cell are the block's (R33). -/
theorem instrEffect_cellAccesses_block (i : Instr) (old : Byte) :
    ∀ e ∈ cellAccesses (instrEffect i old).events, ∃ v, e = .cellRead .block v ∨ e = .cellWrite .block v := by
  cases i with
  | clear | init => simp [instrEffect, clearEffect]
  | ledSettings c b => simp [instrEffect]
  | _ => simp [instrEffect, rwEffect_cellAccesses]

/-- Settles O18: the instruction's effect makes the accesses. -/
theorem everyInstructionMakesItsAccesses : Obligations.EveryInstructionMakesItsAccesses := fun i s =>
  ⟨_, _, exec_eq i s, rfl, rfl, instrEffect_accessKinds i s.ledreg, instrEffect_cellAccesses_block i s.ledreg⟩

/-! The bytes that a message reads (R37). -/

/-- A message reads no byte at or beyond its length. -/
theorem lt_of_mem_bufferOffsets {length : Byte} {buf : List Byte} {n : Nat}
    (h : n ∈ bufferOffsets length buf) : n < length.toNat := by
  unfold bufferOffsets at h
  split at h
  · cases h
  · next h0 =>
    have hpos : length.toNat ≠ 0 := fun hz => h0 (BitVec.eq_of_toNat_eq hz)
    split at h
    · next h3 =>
      obtain ⟨-, rfl⟩ := h3
      have hn : n = 0 ∨ n = 1 ∨ n = 2 := by simpa using h
      change n < 3
      omega
    · obtain rfl : n = 0 := List.mem_singleton.mp h
      exact Nat.pos_of_ne_zero hpos

/-- Of a supplied message every byte at the offsets is there to be read. -/
theorem offsetsRead_fetchEvents {length : Byte} {buf : List Byte} (h : length.toNat ≤ buf.length) :
    offsetsRead (fetchEvents (.message length buf)) = bufferOffsets length buf := by
  have hread : ∀ n ∈ bufferOffsets length buf,
      (buf[n]?.map (Event.bufRead n)).bind Event.offset? = some n := fun n hn => by
    have hlt : n < buf.length := Nat.lt_of_lt_of_le (lt_of_mem_bufferOffsets hn) h
    rw [List.getElem?_eq_getElem hlt]
    rfl
  calc offsetsRead (fetchEvents (.message length buf))
      = (bufferOffsets length buf).filterMap fun n =>
          (buf[n]?.map (Event.bufRead n)).bind Event.offset? := List.filterMap_filterMap
    _ = (bufferOffsets length buf).filterMap some := List.filterMap_congr hread
    _ = bufferOffsets length buf := List.filterMap_some

theorem mem_offsetsRead_of_bufRead {es : List Event} {n : Nat} {v : Byte} (h : .bufRead n v ∈ es) :
    n ∈ offsetsRead es :=
  List.mem_filterMap.mpr ⟨_, h, rfl⟩

/-- An instruction's own events read no byte, and the cell at most twice each way (R107). -/
theorem instrEffect_access_bounds (i : Instr) (old : Byte) :
    offsetsRead (instrEffect i old).events = [] ∧ (cellReads (instrEffect i old).events).length ≤ 2 ∧
      (cellWrites (instrEffect i old).events).length ≤ 2 := by
  cases i <;> simp [instrEffect, rwEffect, clearEffect]

/-- A supplied message completes: its byte reads, then events that read no byte and access the cell at most twice each
way (R107). -/
theorem step_of_supplied {s : State} {length : Byte} {buf : List Byte} {rest : List HostMove}
    (h : Presents s length buf rest) (hlen : length.toNat ≤ buf.length) :
    ∃ (t : State) (es : List Event), step s = .next t ∧
      t.trace = s.trace ++ (fetchEvents (.message length buf) ++ es) ∧
      offsetsRead es = [] ∧ (cellReads es).length ≤ 2 ∧ (cellWrites es).length ≤ 2 := by
  rcases decodeMessage_supplied hlen with ⟨i, hi⟩ | ⟨kind, hk⟩
  · exact ⟨_, _, (step_of_message h rfl rfl).1 i hi, rfl, instrEffect_access_bounds i s.ledreg⟩
  · exact ⟨_, _, (step_of_message h rfl rfl).2 kind hk, rfl, by simp⟩

/-- Settles O37: only the presentation reads bytes, and only those at the offsets of R37. -/
theorem messageReadsOnlyItsBytes : Obligations.MessageReadsOnlyItsBytes := by
  intro s length buf rest h hlen
  obtain ⟨t, es, hstep, htrace, hnone, hreads, hwrites⟩ := step_of_supplied h hlen
  refine ⟨t, _, hstep, htrace, ?_, fun n v hmem => ?_, by simpa, by simpa⟩
  · rw [offsetsRead_append, offsetsRead_fetchEvents hlen, hnone, List.append_nil]
    rfl
  · rcases List.mem_append.mp hmem with hfetch | hes
    · obtain ⟨_, _, _, _, ho, hn, hv, he⟩ := mem_fetchEvents hfetch
      cases ho
      cases he
      exact ⟨lt_of_mem_bufferOffsets hn, hv⟩
    · simpa [hnone] using mem_offsetsRead_of_bufRead hes

end Sys2Proof.Machine

/-! PROOFS. The encoder and the table's numbering, undone by the decoder (R50 to R64). -/

namespace Sys2Proof

/-- A message takes its colour from a byte that holds it (R54). -/
theorem colorOperand_zext8 (c : ColorBits) : colorOperand (zext8 c) = c := by
  rw [colorOperand_eq]
  exact BitVec.setWidth_setWidth_of_le c (by decide)

/-- A message takes its brightness from a byte that holds it (R54). -/
theorem brightnessOperand_zext8 (b : BrightnessBits) : brightnessOperand (zext8 b) = b := by
  rw [brightnessOperand_eq]
  exact BitVec.setWidth_setWidth_of_le b (by decide)

/-- SET_STATE accepts each of its two operands (R61). -/
theorem decodeSetState_zext8 (on : StateBits) : decodeSetState (zext8 on) = .instr (.setState on) := by
  revert on
  decide

/-- Decoding undoes encoding. -/
theorem decode_encode (i : Instr) : decode (encode i) = .instr i := by
  cases i with
  | ledSettings c b =>
    calc decode (encode (.ledSettings c b))
        = .instr (.ledSettings (colorOperand (zext8 c)) (brightnessOperand (zext8 b))) := rfl
      _ = .instr (.ledSettings c b) := by rw [colorOperand_zext8, brightnessOperand_zext8]
  | setState on => exact decodeSetState_zext8 on
  | _ => rfl

/-- A table word decodes as the operation that its bits stand for. -/
theorem decodeTableWord_eq_some_iff {nbits w : Nat} {i : Instr} :
    decodeTableWord nbits w = some i ↔ ∃ o, tableOperation nbits w = some o ∧ decode o = .instr i := by
  unfold decodeTableWord
  cases tableOperation nbits w with
  | none => simp
  | some o => cases h : decode o <;> simp [h]

/-! The table numbers each form without loss (R64). -/

/-- A number whose low bits are `x` is written as `x`. -/
theorem ofNat_eq_of_mod {k n : Nat} {x : BitVec k} (h : n % 2 ^ k = x.toNat) : BitVec.ofNat k n = x :=
  BitVec.eq_of_toNat_eq ((BitVec.toNat_ofNat n k).trans h)

theorem tableOperation_command (cmd : CmdCode) (arg : Byte) :
    tableOperation (Operation.command cmd arg).tableBits (Operation.command cmd arg).tableWord =
      some (.command cmd arg) := by
  have hc : cmd.toNat < 16 := cmd.isLt
  have ha : arg.toNat < 256 := arg.isLt
  have hcmd : BitVec.ofNat 4 ((cmd.toNat * 2 ^ 8 + arg.toNat) / 2 ^ 8) = cmd := ofNat_eq_of_mod (by omega)
  have harg : BitVec.ofNat 8 (cmd.toNat * 2 ^ 8 + arg.toNat) = arg := ofNat_eq_of_mod (by omega)
  simp only [Operation.tableBits, Operation.tableWord, tableOperation, Machine.Const.cmdWidth, hcmd, harg]
  exact if_pos (by omega)

theorem tableOperation_oneByte (op : Byte) :
    tableOperation (Operation.message 1 [op]).tableBits (Operation.message 1 [op]).tableWord =
      some (.message 1 [op]) := by
  have hop : op.toNat < 256 := op.isLt
  have hword : (Operation.message 1 [op]).tableWord = op.toNat := Nat.zero_add _
  rw [hword]
  change (if op.toNat < 2 ^ 8 then some (Operation.message 1 [BitVec.ofNat 8 op.toNat]) else none) = _
  rw [if_pos (by omega), ofNat_eq_of_mod (x := op) (by omega)]

theorem tableOperation_threeBytes (op c b : Byte) :
    tableOperation (Operation.message 3 [op, c, b]).tableBits (Operation.message 3 [op, c, b]).tableWord =
      some (.message 3 [op, c, b]) := by
  have hop : op.toNat < 256 := op.isLt
  have hc : c.toNat < 256 := c.isLt
  have hb : b.toNat < 256 := b.isLt
  generalize hw : (Operation.message 3 [op, c, b]).tableWord = w
  replace hw : ((0 * 2 ^ 8 + op.toNat) * 2 ^ 8 + c.toNat) * 2 ^ 8 + b.toNat = w := hw
  change (if w < 2 ^ 24 then some (Operation.message 3
    [BitVec.ofNat 8 (w / 2 ^ 16), BitVec.ofNat 8 (w / 2 ^ 8), BitVec.ofNat 8 w]) else none) = _
  rw [if_pos (by omega), ofNat_eq_of_mod (x := op) (by omega), ofNat_eq_of_mod (x := c) (by omega),
    ofNat_eq_of_mod (x := b) (by omega)]

/-- The table's number of an encoding stands for that encoding. -/
theorem tableOperation_encode (i : Instr) :
    tableOperation (encode i).tableBits (encode i).tableWord = some (encode i) := by
  cases i with
  | on | off => exact tableOperation_oneByte _
  | ledSettings c b => exact tableOperation_threeBytes ..
  | _ => exact tableOperation_command ..

/-- Settles O1: the table's word of an encoding stands for the encoding, which decodes to the instruction. -/
theorem decodeOfEncodeIsTheInstruction : Obligations.DecodeOfEncodeIsTheInstruction := fun i =>
  ⟨decode_encode i, decodeTableWord_eq_some_iff.mpr ⟨encode i, tableOperation_encode i, decode_encode i⟩⟩

/-- Settles O3: each word is a number, and the decoder computes. -/
theorem writtenOutWordsDecode : Obligations.WrittenOutWordsDecode := by
  unfold Obligations.WrittenOutWordsDecode
  decide

end Sys2Proof

/-! PROOFS. A placed table word is the next instruction (R64, R150). -/

namespace Sys2Proof.Machine

/-- Settles O7: the placed operation is the next move, and it decodes to the instruction. -/
theorem placedWordRunsNext : Obligations.PlacedWordRunsNext := by
  intro s nbits w i h
  obtain ⟨o, ho, hd⟩ := decodeTableWord_eq_some_iff.mp h
  have hplaced : s.withFetchWord nbits w = s.present o := by simp [State.withFetchWord, ho]
  rw [hplaced]
  exact stepRunsTheDecodedInstruction (s.present o) o i s.pending rfl hd

end Sys2Proof.Machine

/-! PROOFS. The cases of a command (R60, R61), what is refused (R150), and which bits decoding loses. -/

namespace Sys2Proof

/-- A command's code and ARG, and what they decode to (R60, R61). -/
inductive CommandCase : BitVec 4 → Byte → Decoded → Prop where
  | setState (on : BitVec 1) : CommandCase 0x2 (zext8 on) (.instr (.setState on))
  | wideSetState (arg : Byte) (h : 2 ≤ arg.toNat) : CommandCase 0x2 arg (.refused (.setStateOperand arg))
  | setColor (arg : Byte) : CommandCase 0x3 arg (.instr (.setColor arg))
  | setBrightness (arg : Byte) : CommandCase 0x4 arg (.instr (.setBrightness arg))
  | noOperand (cmd : BitVec 4) (arg : Byte) (i : Instr)
      (hcmd : cmd.toNat < 2 ∨ 5 ≤ cmd.toNat ∧ cmd.toNat < 12) (hi : encode i = .command cmd 0) :
      CommandCase cmd arg (.instr i)
  | reserved (cmd : BitVec 4) (arg : Byte) (h : 12 ≤ cmd.toNat) :
      CommandCase cmd arg (.refused (.reservedCommand cmd))

/-- The codes 0xC to 0xF select no operation (R61). -/
theorem decodeCommand_reserved {cmd : BitVec 4} {arg : Byte} (h : 12 ≤ cmd.toNat) :
    decodeCommand cmd arg = .refused (.reservedCommand cmd) := by
  obtain ⟨⟨n, hn⟩⟩ := cmd
  replace h : 12 ≤ n := h
  interval_cases n <;> rfl

/-- Each code without operand decodes, at any ARG, to its instruction (R60). -/
theorem decodeCommand_noOperand {cmd : BitVec 4} (h : cmd.toNat < 2 ∨ 5 ≤ cmd.toNat ∧ cmd.toNat < 12) :
    ∃ i, (∀ arg, decodeCommand cmd arg = .instr i) ∧ encode i = .command cmd 0 := by
  obtain ⟨⟨n, hn⟩⟩ := cmd
  replace h : n < 2 ∨ 5 ≤ n ∧ n < 12 := h
  rcases h with h | ⟨h, h'⟩ <;> interval_cases n <;> exact ⟨_, fun _ => rfl, rfl⟩

/-- SET_STATE with a bit of ARG[7:1] set is refused (R61). -/
theorem decodeSetState_wide {arg : Byte} (h : 2 ≤ arg.toNat) :
    decodeSetState arg = .refused (.setStateOperand arg) :=
  if_neg (Nat.not_lt.mpr h)

/-- A byte below 2 is one bit, zero-extended. -/
theorem exists_zext8_of_lt_two {arg : Byte} (h : arg.toNat < 2) : ∃ on : BitVec 1, zext8 on = arg :=
  ⟨arg.setWidth 1, BitVec.eq_of_toNat_eq (by simp; omega)⟩

/-- Every command is one of the cases. -/
theorem command_case (cmd : BitVec 4) (arg : Byte) : CommandCase cmd arg (decode (.command cmd arg)) := by
  change CommandCase cmd arg (decodeCommand cmd arg)
  by_cases hreserved : 12 ≤ cmd.toNat
  · rw [decodeCommand_reserved hreserved]
    exact .reserved cmd arg hreserved
  by_cases h2 : cmd = 0x2
  · subst h2
    change CommandCase 0x2 arg (decodeSetState arg)
    by_cases harg : 2 ≤ arg.toNat
    · rw [decodeSetState_wide harg]
      exact .wideSetState arg harg
    · obtain ⟨on, rfl⟩ := exists_zext8_of_lt_two (Nat.not_le.mp harg)
      rw [decodeSetState_zext8]
      exact .setState on
  by_cases h3 : cmd = 0x3
  · subst h3
    exact .setColor arg
  by_cases h4 : cmd = 0x4
  · subst h4
    exact .setBrightness arg
  · have hcmd : cmd.toNat < 2 ∨ 5 ≤ cmd.toNat ∧ cmd.toNat < 12 := by bv_omega
    obtain ⟨i, hd, hi⟩ := decodeCommand_noOperand hcmd
    rw [hd]
    exact .noOperand cmd arg i hcmd hi

/-! What is refused (R150). -/

theorem wellFormed_command_iff (cmd : BitVec 4) (arg : Byte) :
    (Operation.command cmd arg).wellFormed = true ↔ cmd.toNat < 12 ∧ (cmd = 0x2 → arg.toNat < 2) := by
  simp only [Operation.wellFormed, commandAssigned, setStateOperandOk, Bool.and_eq_true, decide_eq_true_eq]
  rfl

theorem wellFormed_message_iff (length : Byte) (buf : List Byte) :
    (Operation.message length buf).wellFormed = true ↔ length.toNat ≤ buf.length :=
  decide_eq_true_iff

theorem instr_not_refused (i : Instr) : ¬∃ duty, Decoded.instr i = .refused duty := by simp

/-- A command that decodes to an instruction breaks no duty, and one that is refused does. -/
theorem CommandCase.refused_iff {cmd : BitVec 4} {arg : Byte} {d : Decoded} (h : CommandCase cmd arg d) :
    (∃ duty, d = .refused duty) ↔ ¬(Operation.command cmd arg).wellFormed = true := by
  cases h with
  | setState on => exact iff_of_false (instr_not_refused _) (not_not_intro (Laws.EncodingMeetsDuties.setState on))
  | setColor => exact iff_of_false (instr_not_refused _) (not_not_intro (Laws.EncodingMeetsDuties.setColor arg))
  | setBrightness =>
    exact iff_of_false (instr_not_refused _) (not_not_intro (Laws.EncodingMeetsDuties.setBrightness arg))
  | noOperand _ _ _ hcmd =>
    have h2 : cmd ≠ 0x2 := by bv_omega
    refine iff_of_false (instr_not_refused _) (not_not_intro ?_)
    exact (wellFormed_command_iff cmd arg).mpr ⟨by omega, fun h => absurd h h2⟩
  | wideSetState _ harg =>
    refine iff_of_true ⟨_, rfl⟩ fun hwf => ?_
    exact Nat.not_lt.mpr harg (((wellFormed_command_iff _ arg).mp hwf).2 rfl)
  | reserved _ _ hcmd =>
    refine iff_of_true ⟨_, rfl⟩ fun hwf => ?_
    exact Nat.not_lt.mpr hcmd ((wellFormed_command_iff cmd arg).mp hwf).1

/-- A presentation is refused exactly when it breaks a duty of the host. -/
theorem decode_refused_iff (o : Operation) :
    (∃ duty, decode o = .refused duty) ↔ ¬o.wellFormed = true := by
  cases o with
  | command cmd arg => exact (command_case cmd arg).refused_iff
  | message length buf =>
    rw [wellFormed_message_iff]
    change (∃ duty, decodeMessage length buf = .refused duty) ↔ _
    by_cases hlen : length.toNat ≤ buf.length
    · rcases decodeMessage_supplied hlen with ⟨i, hd⟩ | ⟨kind, hd⟩ <;> simp [hd, hlen]
    · simp [decodeMessage_short (Nat.not_le.mp hlen), hlen]

/-! Which bits decoding loses (R53, R57, R60). -/

/-- A colour byte taken as an operand and put back keeps its low three bits (R54). -/
theorem zext8_colorOperand (c : Byte) : zext8 (colorOperand c) = c &&& 0x07 := by
  rw [colorOperand_eq]
  refine Machine.byte_ext fun n h => ?_
  interval_cases n <;> simp [Machine.Const.colorWidth]

/-- A brightness byte taken as an operand and put back keeps its low four bits (R54). -/
theorem zext8_brightnessOperand (b : Byte) : zext8 (brightnessOperand b) = b &&& 0x0F := by
  rw [brightnessOperand_eq]
  refine Machine.byte_ext fun n h => ?_
  interval_cases n <;> simp [Machine.Const.brightnessWidth]

theorem encode_of_commandCase {cmd : BitVec 4} {arg : Byte} {i : Instr} (h : CommandCase cmd arg (.instr i)) :
    encode i = Claims.withoutIgnoredBits (.command cmd arg) := by
  cases h with
  | setState | setColor | setBrightness => rfl
  | noOperand _ _ _ hcmd hi =>
    have hno : ¬(cmd = 0x2 ∨ cmd = 0x3 ∨ cmd = 0x4) := by bv_omega
    exact hi.trans (if_neg hno).symm

theorem encode_of_messageCase {length : Byte} {buf : List Byte} {i : Instr} {reads : List Machine.Event}
    (h : Machine.MessageCase length buf (.instr i) reads) :
    encode i = Claims.withoutIgnoredBits (.message length buf) := by
  cases h with
  | on | off => rfl
  | settings c b =>
    calc encode (.ledSettings (colorOperand c) (brightnessOperand b))
        = .message 3 [2, zext8 (colorOperand c), zext8 (brightnessOperand b)] := rfl
      _ = .message 3 [2, c &&& 0x07, b &&& 0x0F] := by rw [zext8_colorOperand, zext8_brightnessOperand]

/-- A message whose bytes are too few decodes to no instruction (R147). -/
theorem le_length_of_decode_message {length : Byte} {buf : List Byte} {i : Instr}
    (h : decode (.message length buf) = .instr i) : length.toNat ≤ buf.length := by
  by_contra hshort
  rw [decode, decodeMessage_short (Nat.not_le.mp hshort)] at h
  cases h

/-- Settles O2: by the cases of a command and of a supplied message. -/
theorem onlyIgnoredBitsAreLostInDecoding : Obligations.OnlyIgnoredBitsAreLostInDecoding := by
  intro o i h
  cases o with
  | command cmd arg => exact encode_of_commandCase (h ▸ command_case cmd arg)
  | message length buf =>
    exact encode_of_messageCase (h ▸ Machine.message_case (le_length_of_decode_message h))

end Sys2Proof

/-! PROOFS. The step of a presentation that breaks a duty of the host (R61, R147, R150). -/

namespace Sys2Proof.Machine

/-- A refused presentation stops the machine with the duty's name. -/
theorem step_of_refused {s : State} {o : Operation} {rest : List HostMove} {duty : BrokenDuty}
    (h : s.pending = .operation o :: rest) (hd : decode o = .refused duty) :
    step s = .refused (Refusal.ofDuty duty) := by
  simp [step, h, performMove, performOperation, hd]

/-- The step of an operation is a refusal exactly when the decoder's answer is one. -/
theorem step_refused_iff {s : State} {o : Operation} {rest : List HostMove}
    (h : s.pending = .operation o :: rest) : (∃ r, step s = .refused r) ↔ ∃ duty, decode o = .refused duty := by
  constructor
  · rintro ⟨r, hr⟩
    cases he : moveEffect (.operation o) s.ledreg with
    | none =>
      obtain ⟨_, duty, ho, hd, -⟩ := step_of_no_effect h he
      cases ho
      exact ⟨duty, hd⟩
    | some e =>
      rw [step_of_effect h he] at hr
      cases hr
  · rintro ⟨duty, hd⟩
    exact ⟨_, step_of_refused h hd⟩

/-- A step completes exactly when it is not refused. -/
theorem step_next_iff (s : State) : (∃ t, step s = .next t) ↔ ¬∃ r, step s = .refused r := by
  rcases step_next_or_refused s with ⟨x, hx⟩ | ⟨x, hx⟩ <;> simp [hx]

/-- Settles O4: the step is refused where the decoder refuses, which is where a duty is broken. -/
theorem refusedExactlyWhenADutyIsBroken : Obligations.RefusedExactlyWhenADutyIsBroken := by
  intro s o rest h
  have hrefused : (∃ r, step s = .refused r) ↔ ¬o.wellFormed = true :=
    (step_refused_iff h).trans (decode_refused_iff o)
  exact ⟨by rw [hrefused, Bool.not_eq_true], by rw [step_next_iff, hrefused, not_not]⟩

/-- Settles O5: each duty is named by the decoder. -/
theorem refusalsNameTheBrokenDuty : Obligations.RefusalsNameTheBrokenDuty := fun _ _ =>
  ⟨fun _ _ h hcmd => step_of_refused h (decodeCommand_reserved hcmd),
    fun _ h harg => step_of_refused h (decodeSetState_wide harg),
    fun _ _ h hlen => step_of_refused h (decodeMessage_short hlen)⟩

end Sys2Proof.Machine

/-! PROOFS. Messages and the commands they stand for (R63). -/

namespace Sys2Proof.Machine

/-- Masking a colour byte before SET_COLOR makes no difference (R54, R75). -/
theorem colorMerged_colorOperand (c old : Byte) :
    colorMerged (zext8 (colorOperand c)) old = colorMerged c old := by
  rw [zext8_colorOperand, colorMerged_eq, colorMerged_eq, BitVec.and_assoc, BitVec.and_self]

/-- Masking a brightness byte before SET_BRIGHTNESS makes no difference (R54, R76). -/
theorem brightnessMerged_brightnessOperand (b old : Byte) :
    brightnessMerged (zext8 (brightnessOperand b)) old = brightnessMerged b old := by
  rw [zext8_brightnessOperand, brightnessMerged_eq, brightnessMerged_eq, BitVec.and_assoc, BitVec.and_self]

/-- LED_SETTINGS at two parameter bytes has the effect of SET_COLOR, then SET_BRIGHTNESS (R104). -/
theorem instrEffect_ledSettings (c b old : Byte) :
    instrEffect (.ledSettings (colorOperand c) (brightnessOperand b)) old =
      { ledreg := brightnessMerged b (colorMerged c old)
        events := [.cellRead .block old, .cellWrite .block (colorMerged c old),
          .cellRead .block (colorMerged c old),
          .cellWrite .block (brightnessMerged b (colorMerged c old)), .result .success]
        result := some .success } := by
  simp only [instrEffect, colorMerged_colorOperand, brightnessMerged_brightnessOperand]

/-- Both fields replaced, the State bit kept (R104). -/
theorem brightnessMerged_colorMerged_eq (c b old : Byte) :
    brightnessMerged b (colorMerged c old) =
      (old &&& 0x01) ||| ((c &&& 0x07) <<< 1) ||| ((b &&& 0x0F) <<< 4) := by
  refine byte_ext fun n h => ?_
  rw [brightnessMerged_eq, colorMerged_eq]
  interval_cases n <;> simp

/-- Settles O38: each side's effect is read off its instructions. -/
theorem messagesAreTheirCommands : Obligations.MessagesAreTheirCommands := by
  refine fun s => ⟨rfl, ⟨_, _, _, _, exec_eq .on s, exec_eq .stateOn s, rfl, rfl, rfl, rfl⟩,
    ⟨_, _, _, _, exec_eq .off s, exec_eq .stateOff s, rfl, rfl, rfl, rfl⟩, fun c b => ?_⟩
  refine ⟨_, _, _, _, _, exec_eq _ s, exec_eq (.setColor c) s, exec_eq (.setBrightness b) _, ?_, rfl,
    List.append_assoc .., ?_⟩
  · rw [instrEffect_ledSettings]
    rfl
  · rw [instrEffect_ledSettings]
    rfl

end Sys2Proof.Machine

/-! PROOFS. The decode table over the length and the first byte (R56), row by row. -/

namespace Sys2Proof

/-- ON and OFF with a length above 1 (R123). -/
theorem decodeOpcode_longOneByte {length op : Byte} (params : List Byte) (hop : op = 0x00 ∨ op = 0x01)
    (h : 2 ≤ length.toNat) : decodeOpcode length op params = .error .trailingBytes := by
  have hlong : (1 : Byte) < length := BitVec.lt_def.mpr h
  rcases hop with rfl | rfl <;> exact if_pos hlong

/-- LED_SETTINGS with a length below 3 (R124). -/
theorem decodeOpcode_shortSettings {length : Byte} (params : List Byte) (h : length.toNat < 3) :
    decodeOpcode length 0x02 params = .error .missingParameters :=
  if_pos (BitVec.lt_def.mpr h)

/-- LED_SETTINGS with a length above 3 (R123). -/
theorem decodeOpcode_longSettings {length : Byte} (params : List Byte) (h : 3 < length.toNat) :
    decodeOpcode length 0x02 params = .error .trailingBytes := by
  have hlong : (3 : Byte) < length := BitVec.lt_def.mpr h
  exact (if_neg (BitVec.lt_asymm hlong)).trans (if_pos hlong)

/-- An opcode from 0x03 (R122). -/
theorem decodeOpcode_unknown (length : Byte) {op : Byte} (params : List Byte) (h : 3 ≤ op.toNat) :
    decodeOpcode length op params = .error .invalidOpCode := by
  have h0 : op ≠ 0x00 := by bv_omega
  have h1 : op ≠ 0x01 := by bv_omega
  have h2 : op ≠ 0x02 := by bv_omega
  exact (if_neg h0).trans ((if_neg h1).trans (if_neg h2))

end Sys2Proof

namespace Sys2Proof.Machine

/-- A supplied message has an effect. -/
theorem exists_moveEffect_of_supplied {length : Byte} {buf : List Byte} (h : length.toNat ≤ buf.length)
    (old : Byte) : ∃ e, moveEffect (.operation (.message length buf)) old = some e := by
  rcases decodeMessage_supplied h with ⟨i, hd⟩ | ⟨kind, hd⟩ <;> simp [moveEffect, decode, hd]

/-- What an operation's effect leaves follows its instruction (R100). -/
theorem moveEffect_of_instr {o : Operation} {old : Byte} {e : Effect} {i : Instr}
    (he : moveEffect (.operation o) old = some e) (hd : decode o = .instr i) :
    e.result = (instrEffect i old).result ∧ e.ledreg = (instrEffect i old).ledreg := by
  simp only [moveEffect, hd, Option.some.injEq] at he
  subst he
  exact ⟨rfl, rfl⟩

/-- An error shows on RESULT and keeps LEDREG (R106, R126). -/
theorem moveEffect_of_error {o : Operation} {old : Byte} {e : Effect} {kind : ErrorKind}
    (he : moveEffect (.operation o) old = some e) (hd : decode o = .error kind) :
    e.result = some (.error kind) ∧ e.ledreg = old := by
  simp only [moveEffect, hd, Option.some.injEq] at he
  subst he
  exact ⟨rfl, rfl⟩

/-- Settles O24: the decoder answers each row by its lemma, and the effect follows the answer. -/
theorem messageOutcomeTable : Obligations.MessageOutcomeTable := by
  intro s length buf rest h hlen
  obtain ⟨e, he⟩ := exists_moveEffect_of_supplied hlen s.ledreg
  refine ⟨_, step_of_effect h he, rfl, ?_, ?_⟩
  · rintro rfl
    exact moveEffect_of_error he (decodeMessage_zero buf)
  rintro op params rfl
  have herror : ∀ {kind}, 1 ≤ length.toNat → decodeOpcode length op params = .error kind →
      e.result = some (.error kind) ∧ e.ledreg = s.ledreg := fun h1 hd =>
    moveEffect_of_error he ((decodeMessage_cons hlen (Nat.ne_of_gt h1)).trans hd)
  have hinstr : ∀ {i}, 1 ≤ length.toNat → decodeOpcode length op params = .instr i →
      e.result = (instrEffect i s.ledreg).result ∧ e.ledreg = (instrEffect i s.ledreg).ledreg := fun h1 hd =>
    moveEffect_of_instr he ((decodeMessage_cons hlen (Nat.ne_of_gt h1)).trans hd)
  refine ⟨?on, ?onLong, ?off, ?offLong, ?settingsShort, ?settings, ?settingsLong, ?unknown⟩
  case on =>
    rintro rfl rfl
    obtain ⟨hresult, hledreg⟩ := hinstr (i := .on) (by decide) rfl
    exact ⟨hresult, hledreg.trans (stateMerged_eq 1 s.ledreg)⟩
  case onLong => exact fun h2 hop => herror (by omega) (decodeOpcode_longOneByte params (.inl hop) h2)
  case off =>
    rintro rfl rfl
    obtain ⟨hresult, hledreg⟩ := hinstr (i := .off) (by decide) rfl
    exact ⟨hresult, hledreg.trans ((stateMerged_eq 0 s.ledreg).trans BitVec.or_zero)⟩
  case offLong => exact fun h2 hop => herror (by omega) (decodeOpcode_longOneByte params (.inr hop) h2)
  case settingsShort =>
    rintro h1 h2 rfl
    exact herror h1 (decodeOpcode_shortSettings params (by omega))
  case settings =>
    rintro c b more rfl rfl rfl
    obtain ⟨hresult, hledreg⟩ :=
      hinstr (i := .ledSettings (colorOperand c) (brightnessOperand b)) (by decide) rfl
    rw [instrEffect_ledSettings] at hresult hledreg
    exact ⟨hresult, hledreg.trans (brightnessMerged_colorMerged_eq c b s.ledreg)⟩
  case settingsLong =>
    rintro h4 rfl
    exact herror (by omega) (decodeOpcode_longSettings params h4)
  case unknown => exact fun h1 hop => herror h1 (decodeOpcode_unknown length params hop)

end Sys2Proof.Machine

/-! PROOFS. A command's effect: one write, after at most one read, and no Result (R33, R70). -/

namespace Sys2Proof.Machine

open Sys2Proof.Claims

/-- A command clears the register, or reads it and writes a function of what it read; neither drives RESULT. -/
theorem instrEffect_of_command {i : Instr} (h : isMessage i = false) (old : Byte) :
    instrEffect i old = clearEffect ∨ ∃ new, instrEffect i old = rwEffect old new none := by
  cases i with
  | on | off | ledSettings => cases h
  | clear | init => exact .inl rfl
  | _ => exact .inr ⟨_, rfl⟩

/-- Settles O17: each of the two forms of a command's effect keeps the bounds. -/
theorem commandsProduceNoResult : Obligations.CommandsProduceNoResult := by
  intro i s hi
  refine ⟨_, _, exec_eq i s, rfl, ?_⟩
  rcases instrEffect_of_command hi s.ledreg with he | ⟨new, he⟩
  · simp [he, clearEffect]
  · simp [he, rwEffect]

/-- Exactly CLEAR and INIT read nothing (R33, R71). -/
theorem instrEffect_cellReads_eq_nil_iff (i : Instr) (old : Byte) :
    cellReads (instrEffect i old).events = [] ↔ i = .clear ∨ i = .init := by
  cases i with
  | clear | init => exact iff_of_true rfl (by simp)
  | _ => exact iff_of_false (List.cons_ne_nil _ _) (by simp)

/-- Settles O19: the effect keeps the bits outside the field, and the reset event has the effect of CLEAR. -/
theorem bitsOutsideTheFieldSurvive : Obligations.BitsOutsideTheFieldSurvive := fun i s =>
  ⟨⟨_, _, exec_eq i s, instrEffect_outside_field i s.ledreg, rfl, instrEffect_cellReads_eq_nil_iff i s.ledreg⟩,
    fun _ h => ⟨_, _, step_of_effect h rfl, rfl, rfl, rfl⟩⟩

end Sys2Proof.Machine

/-! PROOFS. Every instruction is one masked merge (R7), and what follows for two of them in a row (R89). -/

namespace Sys2Proof.Machine

open Sys2Proof.Claims

/-- Under a full mask nothing of the old value is left. -/
theorem merge_full (old v : Byte) : merge old 0xFF v = v := by
  refine byte_ext fun n h => merge_getLsbD_of_mask_true old 0xFF v n h ?_
  interval_cases n <;> rfl

/-- Two merges are one, under the union of their masks. -/
theorem merge_merge (old mask v mask' v' : Byte) :
    merge (merge old mask v) mask' v' = merge old (mask ||| mask') (merge v mask' v') := by
  refine byte_ext fun n h => ?_
  simp only [merge_getLsbD _ _ _ _ h, BitVec.getLsbD_or]
  cases mask.getLsbD n <;> cases mask'.getLsbD n <;> rfl

/-- Of two merges under one mask the later decides. -/
theorem merge_merge_same (old mask v v' : Byte) : merge (merge old mask v) mask v' = merge old mask v' := by
  refine byte_ext fun n h => ?_
  simp only [merge_getLsbD _ _ _ _ h]
  cases mask.getLsbD n <;> rfl

/-- Merges under disjoint masks commute. -/
theorem merge_comm_of_disjoint {mask mask' : Byte} (hdisjoint : mask &&& mask' = 0) (old v v' : Byte) :
    merge (merge old mask v) mask' v' = merge (merge old mask' v') mask v := by
  refine byte_ext fun n h => ?_
  have hbit : (mask.getLsbD n && mask'.getLsbD n) = false := by
    rw [← BitVec.getLsbD_and, hdisjoint]
    exact BitVec.getLsbD_zero
  simp only [merge_getLsbD _ _ _ _ h]
  cases hm : mask.getLsbD n with
  | false => rfl
  | true =>
    have hm' : mask'.getLsbD n = false := by simpa [hm] using hbit
    simp [hm']

/-- An instruction merges a value of its own into its field, whatever the register held. -/
theorem exists_instrEffect_eq_merge (i : Instr) :
    ∃ v, ∀ old, (instrEffect i old).ledreg = merge old (fieldMask i) v := by
  cases i with
  | clear | init => exact ⟨0, fun old => (merge_full old 0).symm⟩
  | ledSettings c b => exact ⟨_, fun old => merge_merge old Const.colorMask _ Const.brightnessMask _⟩
  | _ => exact ⟨_, fun _ => rfl⟩

/-- Settles O21: two instructions in a row are two merges in a row. -/
theorem fieldsAreIndependent : Obligations.FieldsAreIndependent := by
  intro i j s
  obtain ⟨v, hi⟩ := exists_instrEffect_eq_merge i
  obtain ⟨w, hj⟩ := exists_instrEffect_eq_merge j
  refine ⟨_, _, _, _, _, exec_eq i s, exec_eq j s, exec_eq j _, exec_eq i _, exec_eq i _, ?_⟩
  simp only [State.after_ledreg, hi, hj]
  refine ⟨fun hdisjoint => merge_comm_of_disjoint hdisjoint .., fun hsame => ?_, merge_merge_same ..⟩
  rw [hsame, merge_merge_same]

end Sys2Proof.Machine

/-! PROOFS. The setters in terms of the fields (R84 to R88). -/

namespace Sys2Proof.Machine

/-! The fields of an encoded triple are the triple (R88). -/

@[simp] theorem getState_encodeFields (x : BitVec 1) (c : BitVec 3) (b : BitVec 4) :
    getState (encodeFields x c b) = x := by
  refine BitVec.eq_of_getLsbD_eq fun n h => ?_
  rw [getState_eq, encodeFields_eq]
  interval_cases n
  simp

@[simp] theorem getColor_encodeFields (x : BitVec 1) (c : BitVec 3) (b : BitVec 4) :
    getColor (encodeFields x c b) = c := by
  refine BitVec.eq_of_getLsbD_eq fun n h => ?_
  rw [getColor_eq, encodeFields_eq]
  interval_cases n <;> simp

@[simp] theorem getBrightness_encodeFields (x : BitVec 1) (c : BitVec 3) (b : BitVec 4) :
    getBrightness (encodeFields x c b) = b := by
  refine BitVec.eq_of_getLsbD_eq fun n h => ?_
  rw [getBrightness_eq, encodeFields_eq]
  interval_cases n <;> simp [Const.brightnessWidth]

/-! A setter replaces its field and keeps the other two. -/

theorem stateMerged_eq_encodeFields (on : BitVec 1) (old : Byte) :
    stateMerged on old = encodeFields on (getColor old) (getBrightness old) := by
  refine byte_ext fun n h => ?_
  rw [stateMerged_eq, encodeFields_eq, getColor_eq, getBrightness_eq]
  interval_cases n <;> simp

theorem colorMerged_eq_encodeFields (bits old : Byte) :
    colorMerged bits old = encodeFields (getState old) (bits.setWidth 3) (getBrightness old) := by
  refine byte_ext fun n h => ?_
  rw [colorMerged_eq, encodeFields_eq, getState_eq, getBrightness_eq]
  interval_cases n <;> simp

theorem brightnessMerged_eq_encodeFields (value old : Byte) :
    brightnessMerged value old = encodeFields (getState old) (getColor old) (value.setWidth 4) := by
  refine byte_ext fun n h => ?_
  rw [brightnessMerged_eq, encodeFields_eq, getState_eq, getColor_eq]
  interval_cases n <;> simp

/-- LED_SETTINGS replaces both of its fields and keeps State (R104). -/
theorem instrEffect_ledSettings_eq_encodeFields (c : BitVec 3) (b : BitVec 4) (old : Byte) :
    (instrEffect (.ledSettings c b) old).ledreg = encodeFields (getState old) c b := by
  calc brightnessMerged (zext8 b) (colorMerged (zext8 c) old)
      = brightnessMerged (zext8 b) (encodeFields (getState old) c (getBrightness old)) := by
        rw [colorMerged_eq_encodeFields, BitVec.setWidth_setWidth_of_le c (by decide), BitVec.setWidth_eq]
    _ = encodeFields (getState old) c b := by
        rw [brightnessMerged_eq_encodeFields, getState_encodeFields, getColor_encodeFields,
          BitVec.setWidth_setWidth_of_le b (by decide), BitVec.setWidth_eq]

/-- Settles O20: each instruction's effect, in terms of the fields. -/
theorem settersInFieldTerms : Obligations.SettersInFieldTerms :=
  ⟨encodeFields_get,
    fun x c b => ⟨getState_encodeFields x c b, getColor_encodeFields x c b, getBrightness_encodeFields x c b⟩,
    fun s =>
    ⟨fun on => ⟨_, exec_eq _ s, stateMerged_eq_encodeFields on s.ledreg⟩,
      fun bits => ⟨_, exec_eq _ s, colorMerged_eq_encodeFields bits s.ledreg⟩,
      fun value => ⟨_, exec_eq _ s, brightnessMerged_eq_encodeFields value s.ledreg⟩,
      fun c b => ⟨_, exec_eq _ s, instrEffect_ledSettings_eq_encodeFields c b s.ledreg⟩⟩⟩

end Sys2Proof.Machine

/-! PROOFS. The setters and their wrappers, one by one (R72 to R83), and their wide operands (R90). -/

namespace Sys2Proof.Machine

open Sys2Proof.Claims

/-- SET_STATE replaces bit 0 by its operand (R74). -/
theorem exec_setState (on : StateBits) (s : State) :
    exec (.setState on) s = .next (afterSetter s ((s.ledreg &&& 0xFE) ||| zext8 on)) := by
  rw [exec_eq, ← stateMerged_eq]
  rfl

/-- SET_COLOR replaces bits 3:1 by the low three bits of its operand (R75). -/
theorem exec_setColor (bits : Byte) (s : State) :
    exec (.setColor bits) s = .next (afterSetter s ((s.ledreg &&& 0xF1) ||| ((bits &&& 0x07) <<< 1))) := by
  rw [exec_eq, ← colorMerged_eq]
  rfl

/-- SET_BRIGHTNESS replaces bits 7:4 by the low four bits of its operand (R76). -/
theorem exec_setBrightness (value : Byte) (s : State) :
    exec (.setBrightness value) s =
      .next (afterSetter s ((s.ledreg &&& 0x0F) ||| ((value &&& 0x0F) <<< 4))) := by
  rw [exec_eq, ← brightnessMerged_eq]
  rfl

/-- Settles O10: both have the effect of one write. -/
theorem clearAndInitWriteZero : Obligations.ClearAndInitWriteZero := fun s _ =>
  ⟨rfl, exec_eq .clear s, rfl, exec_eq .init s⟩

/-- Settles O11: one bit, zero-extended, is an operand that SET_STATE accepts. -/
theorem setStateReplacesBitZero : Obligations.SetStateReplacesBitZero := fun s on =>
  ⟨decodeSetState_zext8 on, exec_setState on s⟩

/-- Settles O12: every operand is accepted, and masked. -/
theorem setColorReplacesColor : Obligations.SetColorReplacesColor := fun s bits => ⟨rfl, exec_setColor bits s⟩

/-- Settles O13: every operand is accepted, and masked. -/
theorem setBrightnessReplacesBrightness : Obligations.SetBrightnessReplacesBrightness := fun s value =>
  ⟨rfl, exec_setBrightness value s⟩

/-- Settles O14: each wrapper's meaning is SET_STATE's at its constant. -/
theorem stateWrappersAreSetState : Obligations.StateWrappersAreSetState := fun s _ =>
  ⟨rfl, rfl, exec_setState 1 s, rfl, rfl, (exec_setState 0 s).trans (by simp)⟩

/-- Settles O15: each wrapper's meaning is SET_COLOR's at its constant. -/
theorem colorWrappersAreSetColor : Obligations.ColorWrappersAreSetColor := fun s _ =>
  ⟨rfl, rfl, exec_setColor 0x01 s, rfl, rfl, exec_setColor 0x02 s, rfl, rfl, exec_setColor 0x04 s⟩

/-- Settles O16: each wrapper's meaning is SET_BRIGHTNESS's at its constant. -/
theorem brightnessWrappersAreSetBrightness : Obligations.BrightnessWrappersAreSetBrightness := fun s _ =>
  ⟨rfl, rfl, (exec_setBrightness 0x00 s).trans (by simp), rfl, rfl, exec_setBrightness 0x0F s⟩

/-! Operands wider than the field (R90). -/

/-- A byte modulo a power of two is its low bits. -/
theorem ofNat_mod_two_pow (v : Byte) (w : Nat) : BitVec.ofNat 8 (v.toNat % 2 ^ w) = zext8 (v.setWidth w) :=
  BitVec.eq_of_toNat_eq (by simp)

theorem ofNat_mod_eight (v : Byte) : BitVec.ofNat 8 (v.toNat % 8) = v &&& 0x07 := by
  rw [← zext8_colorOperand, colorOperand_eq]
  exact ofNat_mod_two_pow v 3

theorem ofNat_mod_sixteen (v : Byte) : BitVec.ofNat 8 (v.toNat % 16) = v &&& 0x0F := by
  rw [← zext8_brightnessOperand, brightnessOperand_eq]
  exact ofNat_mod_two_pow v 4

/-- SET_COLOR leaves in Color the low bits of its operand. -/
theorem getColor_colorMerged (bits old : Byte) : getColor (colorMerged bits old) = bits.setWidth 3 := by
  rw [colorMerged_eq_encodeFields, getColor_encodeFields]

/-- SET_BRIGHTNESS leaves in Brightness the low bits of its operand. -/
theorem getBrightness_brightnessMerged (value old : Byte) :
    getBrightness (brightnessMerged value old) = value.setWidth 4 := by
  rw [brightnessMerged_eq_encodeFields, getBrightness_encodeFields]

/-- Settles O22: the operand modulo its field's size is the operand masked, which the setter does anyway. -/
theorem wideOperandsActModuloTheField : Obligations.WideOperandsActModuloTheField := by
  intro s v
  refine ⟨?_, ?_, _, _, exec_eq (.setColor 0x08) s, getColor_colorMerged 0x08 s.ledreg,
    exec_eq (.setBrightness 0x10) s, getBrightness_brightnessMerged 0x10 s.ledreg⟩
  · rw [exec_setColor, exec_setColor, ofNat_mod_eight, BitVec.and_assoc, BitVec.and_self]
  · rw [exec_setBrightness, exec_setBrightness, ofNat_mod_sixteen, BitVec.and_assoc, BitVec.and_self]

end Sys2Proof.Machine

/-! PROOFS. Which moves deliver a Result, and that LEDREG has no part in it (R101, R120). -/

namespace Sys2Proof.Machine

open Sys2Proof.Claims

/-- The instructions that end with Success are the messages (R70, R120). -/
theorem instrEffect_result (i : Instr) (old : Byte) :
    (instrEffect i old).result = if isMessage i then some .success else none := by
  cases i <;> rfl

theorem instrEffect_result_of_message {i : Instr} (h : isMessage i = true) (old : Byte) :
    (instrEffect i old).result = some .success := by
  rw [instrEffect_result, if_pos h]

@[simp] theorem results_fetchEvents (o : Operation) : results (fetchEvents o) = [] :=
  filterMap_fetchEvents (fun _ _ => rfl) o

/-- An instruction delivers the Result it leaves on RESULT, if any, and no other. -/
theorem instrEffect_results (i : Instr) (old : Byte) :
    results (instrEffect i old).events = (instrEffect i old).result.toList := by
  cases i <;> rfl

/-- The same for every move of the host. -/
theorem moveEffect_results {m : HostMove} {old : Byte} {e : Effect} (h : moveEffect m old = some e) :
    results e.events = e.result.toList := by
  cases m with
  | operation o =>
    cases hd : decode o with
    | instr i =>
      simp only [moveEffect, hd, Option.some.injEq] at h
      subst h
      simp [instrEffect_results]
    | error kind =>
      simp only [moveEffect, hd, Option.some.injEq] at h
      subst h
      simp
    | refused duty => simp [moveEffect, hd] at h
  | _ => cases h; rfl

/-- Whatever the register holds, a move that has an effect has one, with the same Result. -/
theorem exists_moveEffect_same_result {m : HostMove} {old : Byte} {e : Effect} (h : moveEffect m old = some e)
    (old' : Byte) : ∃ e', moveEffect m old' = some e' ∧ e'.result = e.result := by
  cases m with
  | operation o =>
    cases hd : decode o with
    | instr i =>
      obtain ⟨hresult, -⟩ := moveEffect_of_instr h hd
      refine ⟨_, by simp only [moveEffect, hd]; rfl, ?_⟩
      rw [hresult, instrEffect_result, instrEffect_result]
    | error kind =>
      obtain ⟨hresult, -⟩ := moveEffect_of_error h hd
      exact ⟨_, by simp only [moveEffect, hd]; rfl, hresult.symm⟩
    | refused duty => simp [moveEffect, hd] at h
  | _ => cases h; exact ⟨_, rfl, rfl⟩

/-- Two states with the same moves to come that have shown the same Results; their registers may differ. -/
structure SameResults (s s' : State) : Prop where
  pending : s'.pending = s.pending
  result : s'.result = s.result
  results : results s'.trace = results s.trace

/-- From two such states one step leads to two such states. -/
theorem SameResults.step {s s' t : State} (h : SameResults s s') (hstep : step s = .next t) :
    ∃ t', Machine.step s' = .next t' ∧ SameResults t t' := by
  rcases step_cases hstep with ⟨hnone, rfl⟩ | ⟨m, ms, e, hp, he, rfl⟩
  · exact ⟨s', step_of_no_move (h.pending.trans hnone), h⟩
  · obtain ⟨e', he', hresult⟩ := exists_moveEffect_same_result he s'.ledreg
    refine ⟨_, step_of_effect (h.pending.trans hp) he', rfl, hresult, ?_⟩
    simp [moveEffect_results he, moveEffect_results he', hresult, h.results]

/-- Settles O34: the step keeps the Results of two states that differ in LEDREG the same. -/
theorem registerNeverChangesTheResult : Obligations.RegisterNeverChangesTheResult := by
  intro s t u hstep
  have hsame : SameResults s (s.setLedreg u) := ⟨rfl, rfl, rfl⟩
  obtain ⟨t', hstep', ht⟩ := hsame.step hstep
  exact ⟨t', hstep', ht.pending, ht.result⟩

/-- A relation that steps carry along holds between the ends of two runs: the induction over two runs, once. -/
theorem run_simulation {R : State → State → Prop}
    (sim : ∀ s s' t, R s s' → step s = .next t → ∃ t', step s' = .next t' ∧ R t t') :
    ∀ (n : Nat) (s s' t : State), R s s' → core.run n s = .next t →
      ∃ t', core.run n s' = .next t' ∧ R t t' := by
  intro n
  induction n with
  | zero =>
    intro s s' t hs hrun
    cases hrun
    exact ⟨s', rfl, hs⟩
  | succ n ih =>
    intro s s' t hs hrun
    rcases step_next_or_refused s with ⟨x, hx⟩ | ⟨r, hx⟩
    · rw [run_of_next n hx] at hrun
      obtain ⟨x', hx', hrel⟩ := sim s s' x hs hx
      rw [run_of_next n hx']
      exact ih x x' t hrel hrun
    · rw [run_of_refused n hx] at hrun
      cases hrun

/-- Settles O49: the same Results, step by step. -/
theorem runResultsDoNotDependOnPowerUp : Obligations.RunResultsDoNotDependOnPowerUp := by
  intro n s t u hrun
  obtain ⟨t', hrun', ht⟩ :=
    run_simulation (fun _ _ _ => SameResults.step) n s (s.setLedreg u) t ⟨rfl, rfl, rfl⟩ hrun
  exact ⟨t', hrun', ht.results, ht.result, ht.pending⟩

end Sys2Proof.Machine

/-! PROOFS. A run in which the host keeps its duties (R107, R145, R152). -/

namespace Sys2Proof.Machine

open Sys2Proof.Claims

/-- The ignored bits do not tell the ports apart. -/
theorem movesMessage_withoutIgnoredBits (o : Operation) :
    movesMessage (.operation (withoutIgnoredBits o)) = movesMessage (.operation o) := by
  cases o with
  | command cmd arg => simp only [withoutIgnoredBits]; split <;> rfl
  | message length buf => simp only [withoutIgnoredBits]; split <;> rfl

/-- An instruction is a message exactly when what decoded to it was presented on the message port. -/
theorem isMessage_of_decode {o : Operation} {i : Instr} (h : decode o = .instr i) :
    isMessage i = movesMessage (.operation o) := by
  calc isMessage i
      = movesMessage (.operation (encode i)) := by cases i <;> rfl
    _ = movesMessage (.operation (withoutIgnoredBits o)) := by rw [onlyIgnoredBitsAreLostInDecoding o i h]
    _ = movesMessage (.operation o) := movesMessage_withoutIgnoredBits o

/-- Only a message ends in an error. -/
theorem movesMessage_of_decode_error {o : Operation} {kind : ErrorKind} (h : decode o = .error kind) :
    movesMessage (.operation o) = true := by
  cases o with
  | command cmd arg => cases h ▸ command_case cmd arg
  | message length buf => rfl

/-- A completed move leaves a Result on RESULT exactly when it presented a message. -/
theorem moveEffect_result_isSome {m : HostMove} {old : Byte} {e : Effect} (h : moveEffect m old = some e) :
    e.result.isSome = movesMessage m := by
  cases m with
  | operation o =>
    cases hd : decode o with
    | instr i =>
      obtain ⟨hresult, -⟩ := moveEffect_of_instr h hd
      rw [hresult, instrEffect_result, ← isMessage_of_decode hd]
      cases isMessage i <;> rfl
    | error kind =>
      obtain ⟨hresult, -⟩ := moveEffect_of_error h hd
      rw [hresult, movesMessage_of_decode_error hd]
      rfl
    | refused duty => simp [moveEffect, hd] at h
  | _ => cases h; rfl

/-- A completed move delivers one Result if it presented a message, and none otherwise. -/
theorem moveEffect_results_length {m : HostMove} {old : Byte} {e : Effect} (h : moveEffect m old = some e) :
    (results e.events).length = if movesMessage m then 1 else 0 := by
  rw [moveEffect_results h, ← moveEffect_result_isSome h]
  cases e.result <;> rfl

/-- A move in which the host keeps its duties has an effect (R150). -/
theorem exists_moveEffect_of_dutiful {m : HostMove} (h : m.dutiful = true) (old : Byte) :
    ∃ e, moveEffect m old = some e := by
  cases m with
  | operation o =>
    cases hd : decode o with
    | refused duty => exact absurd h ((decode_refused_iff o).mp ⟨duty, hd⟩)
    | _ => simp [moveEffect, hd]
  | _ => exact ⟨_, rfl⟩

/-- Settles O48: by induction on the moves left, each of which has an effect. -/
theorem dutifulRunComesToItsEnd : Obligations.DutifulRunComesToItsEnd := by
  intro s hdutiful
  induction hp : s.pending generalizing s with
  | nil => exact ⟨s, rfl, hp, rfl⟩
  | cons m ms ih =>
    obtain ⟨hm, hms⟩ : m.dutiful = true ∧ ms.all HostMove.dutiful = true := by
      simpa [State.dutiful, hp] using hdutiful
    obtain ⟨e, he⟩ := exists_moveEffect_of_dutiful hm s.ledreg
    obtain ⟨t, hrun, hend, hcount⟩ := ih ((s.setPending ms).after e) hms rfl
    refine ⟨t, (run_of_next ms.length (step_of_effect hp he)).trans hrun, hend, ?_⟩
    have hlength := moveEffect_results_length he
    simp only [State.after_trace, State.setPending_trace, results_append, List.length_append] at hcount
    rw [List.countP_cons]
    omega

end Sys2Proof.Machine

/-! PROOFS. Outcomes of a supplied message: an error (R106, R126) or Success (R101). -/

namespace Sys2Proof.Machine

open Sys2Proof.Claims

/-- A supplied message decodes to an instruction or to an error (R147). -/
theorem decode_supplied {length : Byte} {buf : List Byte} (h : length.toNat ≤ buf.length) :
    (∃ i, decode (.message length buf) = .instr i) ∨ ∃ kind, decode (.message length buf) = .error kind :=
  decodeMessage_supplied h

/-- An effect that leaves a Result on RESULT draws no free value for the port. -/
theorem State.after_of_result {e : Effect} {r : Result} (h : e.result = some r) (s : State) :
    s.after e = { s with ledreg := e.ledreg, result := some r, trace := s.trace ++ e.events } := by
  simp [State.after, h]

/-- Every message that ends in an error reads at most the opcode (R37). -/
theorem MessageCase.offsetsRead_of_error {length : Byte} {buf : List Byte} {kind : ErrorKind}
    {reads : List Event} (h : MessageCase length buf (.error kind) reads) :
    offsetsRead reads = if kind = .empty then [] else [0] := by
  cases h <;> rfl

/-- A supplied message that decodes to an error ends in it. -/
theorem endsInError_of_decode {s : State} {length : Byte} {buf : List Byte} {rest : List HostMove}
    {kind : ErrorKind} (h : Presents s length buf rest) (hlen : length.toNat ≤ buf.length)
    (hd : decode (.message length buf) = .error kind) :
    EndsInError s rest kind (if kind = .empty then [] else [0]) := by
  have hreads := MessageCase.offsetsRead_of_error (hd ▸ message_case hlen)
  exact ⟨_, (step_of_message h hd rfl).2 kind rfl, by simpa using hreads, by simp, by simp⟩

/-- A message whose opcode byte leads to an error reads that byte and no other. -/
theorem endsInError_of_decodeOpcode {s : State} {length op : Byte} {params : List Byte} {rest : List HostMove}
    {kind : ErrorKind} (h : Presents s length (op :: params) rest) (hlen : length.toNat ≤ params.length + 1)
    (h1 : 1 ≤ length.toNat) (hkind : kind ≠ .empty) (hd : decodeOpcode length op params = .error kind) :
    EndsInError s rest kind [0] := by
  have hend := endsInError_of_decode h hlen ((decodeMessage_cons hlen (Nat.ne_of_gt h1)).trans hd)
  rwa [if_neg hkind] at hend

/-- Settles O29: the opcode is known to be unknown before the length is looked at. -/
theorem unknownOpcodeIsInvalid : Obligations.UnknownOpcodeIsInvalid := fun _ length _ params _ h hlen h1 hop =>
  endsInError_of_decodeOpcode h hlen h1 (by decide) (decodeOpcode_unknown length params hop)

/-- An outcome with an effect that delivers Success, and no other Result, succeeds. -/
theorem succeeds_of_effect {outcome : Host.Outcome State Fault Refusal} {s : State} {rest : List HostMove}
    {e : Effect} (h : outcome = .next ((s.setPending rest).after e)) (hresult : e.result = some .success)
    (hresults : results e.events = [.success]) :
    Succeeds outcome s rest e.ledreg (offsetsRead e.events) (cellAccesses e.events) :=
  ⟨e.events, h.trans (congrArg _ (State.after_of_result hresult _)), rfl, rfl, hresults⟩

/-- A message's meaning is a success with the accesses of its effect. -/
theorem succeeds_exec {i : Instr} (hi : isMessage i = true) (s : State) :
    Succeeds (exec i s) s s.pending (instrEffect i s.ledreg).ledreg []
      (cellAccesses (instrEffect i s.ledreg).events) := by
  have hresult := instrEffect_result_of_message hi s.ledreg
  have hsucceeds := succeeds_of_effect (rest := s.pending) (exec_eq i s) hresult
    (by rw [instrEffect_results, hresult]; rfl)
  rwa [(instrEffect_access_bounds i s.ledreg).1] at hsucceeds

/-- A supplied message that decodes to an instruction is that instruction's success, after its byte reads. -/
theorem succeeds_of_decode {s : State} {length : Byte} {buf : List Byte} {rest : List HostMove} {i : Instr}
    (h : Presents s length buf rest) (hlen : length.toNat ≤ buf.length)
    (hd : decode (.message length buf) = .instr i) :
    Succeeds (step s) s rest (instrEffect i s.ledreg).ledreg (bufferOffsets length buf)
      (cellAccesses (instrEffect i s.ledreg).events) := by
  have hresult := instrEffect_result_of_message (isMessage_of_decode hd) s.ledreg
  have hsucceeds := succeeds_of_effect ((step_of_message h hd rfl).1 i rfl) hresult
    (by simp [instrEffect_results, hresult])
  simpa only [offsetsRead_append, offsetsRead_fetchEvents hlen, (instrEffect_access_bounds i s.ledreg).1,
    List.append_nil, cellAccesses_append, cellAccesses_fetchEvents, List.nil_append] using hsucceeds

end Sys2Proof.Machine

/-! PROOFS. ON and OFF (R102, R103). -/

namespace Sys2Proof.Machine

open Sys2Proof.Claims

@[simp] theorem rwEffect_ledreg (old new : Byte) (r : Option Result) : (rwEffect old new r).ledreg = new := rfl

/-- `set_state(on)` sets bit 0 and keeps the rest (R102). -/
theorem stateMerged_one (old : Byte) : stateMerged 1 old = (old &&& 0xFE) ||| 0x01 := stateMerged_eq 1 old

/-- `set_state(off)` clears bit 0 and keeps the rest (R103). -/
theorem stateMerged_zero (old : Byte) : stateMerged 0 old = old &&& 0xFE :=
  (stateMerged_eq 0 old).trans BitVec.or_zero

/-- An opcode of required length 1 whose instruction reads the register and writes `new` of it. -/
theorem oneByteMessage_of_rwEffect {op : Byte} {i : Instr} {new : Byte → Byte} (hop : op = 0x00 ∨ op = 0x01)
    (hd : ∀ params, decodeOpcode 1 op params = .instr i) (hi : isMessage i = true)
    (he : ∀ old, instrEffect i old = rwEffect old (new old) (some .success)) : OneByteMessage op i new := by
  refine ⟨fun s => ?meaning, fun s params rest h => ?message, fun s length params rest h hlen h2 => ?long⟩
  case meaning => simpa only [he, rwEffect_cellAccesses, rwEffect_ledreg] using succeeds_exec hi s
  case message =>
    have hlen : (1 : Byte).toNat ≤ (op :: params).length := Nat.le_add_left ..
    have hoffsets : bufferOffsets 1 (op :: params) = [0] := by rcases hop with rfl | rfl <;> rfl
    have hsucceeds := succeeds_of_decode h hlen ((decodeMessage_cons hlen (by decide)).trans (hd params))
    simpa only [he, rwEffect_cellAccesses, rwEffect_ledreg, hoffsets] using hsucceeds
  case long =>
    exact endsInError_of_decodeOpcode h hlen (by omega) (by decide) (decodeOpcode_longOneByte params hop h2)

/-- Settles O26: ON's effect is `set_state(on)`. -/
theorem onMessageSetsState : Obligations.OnMessageSetsState :=
  oneByteMessage_of_rwEffect (i := .on) (.inl rfl) (fun _ => rfl) rfl fun old =>
    congrArg (rwEffect old · (some .success)) (stateMerged_one old)

/-- Settles O27: OFF's effect is `set_state(off)`. -/
theorem offMessageClearsState : Obligations.OffMessageClearsState :=
  oneByteMessage_of_rwEffect (i := .off) (.inr rfl) (fun _ => rfl) rfl fun old =>
    congrArg (rwEffect old · (some .success)) (stateMerged_zero old)

end Sys2Proof.Machine

/-! PROOFS. LED_SETTINGS (R104). -/

namespace Sys2Proof.Machine

open Sys2Proof.Claims

/-- A colour operand is within its field: SET_COLOR's mask cuts nothing of it. -/
theorem colorMerged_zext8 (c : BitVec 3) (old : Byte) :
    colorMerged (zext8 c) old = (old &&& 0xF1) ||| (zext8 c <<< 1) := by
  rw [colorMerged_eq, ← zext8_colorOperand, colorOperand_zext8]

/-- A brightness operand is within its field: SET_BRIGHTNESS's mask cuts nothing of it. -/
theorem brightnessMerged_zext8 (b : BitVec 4) (old : Byte) :
    brightnessMerged (zext8 b) old = (old &&& 0x0F) ||| (zext8 b <<< 4) := by
  rw [brightnessMerged_eq, ← zext8_brightnessOperand, brightnessOperand_zext8]

/-- Settles O28: the two merges of the effect, at the operands and at the parameter bytes; the lengths by the
decoder. -/
theorem ledSettingsMessageSetsColorThenBrightness : Obligations.LedSettingsMessageSetsColorThenBrightness := by
  refine ⟨fun s c b => ?meaning, fun s c b more rest h => ?message,
    fun s length params rest h hlen => ⟨?short, ?long⟩⟩
  case meaning =>
    dsimp only
    rw [← colorMerged_zext8, ← brightnessMerged_zext8]
    exact succeeds_exec (i := .ledSettings c b) rfl s
  case message =>
    have hlen : (3 : Byte).toNat ≤ (0x02 :: c :: b :: more).length := Nat.le_add_left ..
    have hsucceeds := succeeds_of_decode h hlen (decodeMessage_cons hlen (by decide))
    rw [instrEffect_ledSettings, brightnessMerged_colorMerged_eq, colorMerged_eq] at hsucceeds
    exact hsucceeds
  case short =>
    exact fun h1 h3 => endsInError_of_decodeOpcode h hlen h1 (by decide) (decodeOpcode_shortSettings params h3)
  case long =>
    exact fun h3 =>
      endsInError_of_decodeOpcode h hlen (by omega) (by decide) (decodeOpcode_longSettings params h3)

end Sys2Proof.Machine

/-! PROOFS. What a message does to the register: nothing, or its writes (R106), and the same when repeated (R108). -/

namespace Sys2Proof.Machine

open Sys2Proof.Claims

/-- The writes of a message that succeeds are those of its opcode's rule (R102 to R104). -/
theorem MessageCase.cellWrites_of_instr {length : Byte} {buf : List Byte} {i : Instr} {reads : List Event}
    (h : MessageCase length buf (.instr i) reads) (old : Byte) :
    (buf.head? = some 0x00 ∧ cellWrites (instrEffect i old).events = [(old &&& 0xFE) ||| 0x01]) ∨
    (buf.head? = some 0x01 ∧ cellWrites (instrEffect i old).events = [old &&& 0xFE]) ∨
    (∃ c b more, buf = 0x02 :: c :: b :: more ∧
      cellWrites (instrEffect i old).events = [(old &&& 0xF1) ||| ((c &&& 0x07) <<< 1),
        (old &&& 0x01) ||| ((c &&& 0x07) <<< 1) ||| ((b &&& 0x0F) <<< 4)]) := by
  cases h with
  | on params => exact .inl ⟨rfl, congrArg ([·]) (stateMerged_one old)⟩
  | off params => exact .inr (.inl ⟨rfl, congrArg ([·]) (stateMerged_zero old)⟩)
  | settings c b more =>
    refine .inr (.inr ⟨c, b, more, rfl, ?_⟩)
    rw [instrEffect_ledSettings, brightnessMerged_colorMerged_eq, colorMerged_eq]
    rfl

/-- Settles O31: an error's effect has no access; a success's writes are its instruction's. -/
theorem rejectedMessageNeverMutates : Obligations.RejectedMessageNeverMutates := by
  intro s length buf rest h hlen
  rcases decode_supplied hlen with ⟨i, hd⟩ | ⟨kind, hd⟩
  · have hresult := instrEffect_result_of_message (isMessage_of_decode hd) s.ledreg
    refine ⟨_, _, (step_of_message h hd rfl).1 i rfl, rfl, fun hne => absurd hresult hne, fun _ => ?_⟩
    rw [cellWrites_append, cellWrites_fetchEvents, List.nil_append]
    exact MessageCase.cellWrites_of_instr (hd ▸ message_case hlen) s.ledreg
  · refine ⟨_, _, (step_of_message h hd rfl).2 kind rfl, rfl, fun _ => ⟨by simp, rfl⟩, fun hsuccess => ?_⟩
    cases hsuccess

/-- An instruction on the register it left makes no further change (R108). -/
theorem instrEffect_ledreg_idem (i : Instr) (old : Byte) :
    (instrEffect i (instrEffect i old).ledreg).ledreg = (instrEffect i old).ledreg := by
  obtain ⟨v, hv⟩ := exists_instrEffect_eq_merge i
  rw [hv, hv, merge_merge_same]

/-- Settles O36: an error keeps the register; an instruction merges the same value under the same mask again. -/
theorem repeatedMessageIsIdempotent : Obligations.RepeatedMessageIsIdempotent := by
  intro s length buf rest h hlen
  rcases decode_supplied hlen with ⟨i, hd⟩ | ⟨kind, hd⟩
  · refine ⟨_, _, _, _, (step_of_message h hd rfl).1 i rfl, (step_of_message (ms := rest) rfl hd rfl).1 i rfl, ?_,
      instrEffect_ledreg_idem i s.ledreg, rfl, rfl, ?_⟩
    · exact (instrEffect_result ..).trans (instrEffect_result ..).symm
    · simp only [cellAccesses_append, cellAccesses_fetchEvents, List.nil_append, instrEffect_accessKinds]
  · exact ⟨_, _, _, _, (step_of_message h hd rfl).2 kind rfl, (step_of_message (ms := rest) rfl hd rfl).2 kind rfl,
      rfl, rfl, rfl, rfl, rfl⟩

end Sys2Proof.Machine

/-! PROOFS. A message is the algorithm of process_message (R100), access by access. -/

namespace Sys2Proof.Machine

open Sys2Proof.Claims

/-- An error after the opcode byte was read: the whole state it leaves (R126). -/
theorem State.raise_after_opcode (s : State) (op : Byte) (kind : ErrorKind) :
    (s.record (.bufRead 0 op)).raise kind =
      s.after { ledreg := s.ledreg
                events := [.bufRead 0 op, .result (.error kind)]
                result := some (.error kind) } := by
  simp [State.raise_eq, State.after]

/-- A message with an error: the algorithm reads what the case reads, then fails (R100, R126). -/
theorem MessageCase.processMessage_of_error {length : Byte} {buf : List Byte} {kind : ErrorKind}
    {reads : List Event} (h : MessageCase length buf (.error kind) reads) (s : State) :
    processMessage length buf s =
      s.after { ledreg := s.ledreg, events := reads ++ [.result (.error kind)], result := some (.error kind) } := by
  cases h with
  | empty => rfl
  | longOneByte _ op params hop hlong =>
    have h0 : length.toNat ≠ 0 := by omega
    refine Eq.trans ?_ (s.raise_after_opcode op .trailingBytes)
    rcases hop with rfl | rfl <;> exact (if_neg h0).trans (if_pos hlong)
  | shortSettings _ params h1 hshort =>
    have h0 : length.toNat ≠ 0 := by omega
    exact ((if_neg h0).trans (if_pos hshort)).trans (s.raise_after_opcode 2 .missingParameters)
  | longSettings _ params hlong =>
    have h0 : length.toNat ≠ 0 := by omega
    have h3 : ¬length.toNat < 3 := by omega
    exact ((if_neg h0).trans ((if_neg h3).trans (if_pos hlong))).trans (s.raise_after_opcode 2 .trailingBytes)
  | unknown _ op params h1 hop =>
    have h0 : length.toNat ≠ 0 := by omega
    have hop0 : op ≠ 0x00 := by bv_omega
    have hop1 : op ≠ 0x01 := by bv_omega
    have hop2 : op ≠ 0x02 := by bv_omega
    refine Eq.trans ?_ (s.raise_after_opcode op .invalidOpCode)
    exact (if_neg h0).trans ((if_neg hop0).trans ((if_neg hop1).trans (if_neg hop2)))

/-- `set_state` and Success after the opcode byte was read: the whole state they leave (R102, R103). -/
theorem State.setStateField_after_opcode (s : State) (op : Byte) (on : StateBits) :
    ((s.record (.bufRead 0 op)).setStateField on).returnSuccess =
      s.after { ledreg := stateMerged on s.ledreg
                events := [.bufRead 0 op, .cellRead .block s.ledreg, .cellWrite .block (stateMerged on s.ledreg),
                  .result .success]
                result := some .success } := by
  simp [State.setStateField_eq, State.returnSuccess_eq, State.after]

/-- A message without an error: the algorithm reads what the case reads, then calls the setters of its
instruction (R100). -/
theorem MessageCase.processMessage_of_instr {length : Byte} {buf : List Byte} {i : Instr}
    {reads : List Event} (h : MessageCase length buf (.instr i) reads) (s : State) :
    processMessage length buf s =
      s.after { instrEffect i s.ledreg with events := reads ++ (instrEffect i s.ledreg).events } := by
  cases h with
  | on params => exact s.setStateField_after_opcode 0 1
  | off params => exact s.setStateField_after_opcode 1 0
  | settings c b more =>
    calc processMessage 3 (2 :: c :: b :: more) s
        = (((((s.record (.bufRead 0 2)).record (.bufRead 1 c)).record (.bufRead 2 b)).setColorField
            (c &&& 0x07)).setBrightnessField (b &&& 0x0F)).returnSuccess := rfl
      _ = _ := by
        rw [← zext8_colorOperand, ← zext8_brightnessOperand]
        simp [State.setColorField_eq, State.setBrightnessField_eq, State.returnSuccess_eq, instrEffect, State.after]

/-- Settles O25: the step and the algorithm agree in every case of a message. -/
theorem messageFollowsTheAlgorithm : Obligations.MessageFollowsTheAlgorithm := by
  intro s length buf rest h hlen
  rcases decode_supplied hlen with ⟨i, hd⟩ | ⟨kind, hd⟩
  · rw [MessageCase.processMessage_of_instr (hd ▸ message_case hlen)]
    exact (step_of_message h hd rfl).1 i rfl
  · rw [MessageCase.processMessage_of_error (hd ▸ message_case hlen)]
    exact (step_of_message h hd rfl).2 kind rfl

end Sys2Proof.Machine

/-! PROOFS. The Result of a supplied message: exactly one, by the order of R125, with the causes of R121 to R124. -/

namespace Sys2Proof.Machine

open Sys2Proof.Claims

section
variable (length op : Nat)

/-- Empty comes before everything (R121, R125). -/
theorem resultByPriority_eq_empty_iff : resultByPriority length op = .error .empty ↔ length = 0 := by
  unfold resultByPriority
  split_ifs <;> simp [*]

/-- Only Empty comes before InvalidOpCode (R122, R125). -/
theorem resultByPriority_eq_invalidOpCode_iff :
    resultByPriority length op = .error .invalidOpCode ↔ 1 ≤ length ∧ 3 ≤ op := by
  unfold resultByPriority
  split_ifs <;> simp <;> omega

/-- The length that is too long depends on the opcode (R123). -/
theorem resultByPriority_eq_trailingBytes_iff :
    resultByPriority length op = .error .trailingBytes ↔
      ((op = 0 ∨ op = 1) ∧ 2 ≤ length) ∨ (op = 2 ∧ 4 ≤ length) := by
  unfold resultByPriority
  split_ifs <;> simp <;> omega

/-- Only LED_SETTINGS can be too short (R124). -/
theorem resultByPriority_eq_missingParameters_iff :
    resultByPriority length op = .error .missingParameters ↔ op = 2 ∧ (length = 1 ∨ length = 2) := by
  unfold resultByPriority
  split_ifs <;> simp <;> omega

end

/-- The decoder's errors follow the order of R125. -/
theorem MessageCase.resultByPriority_of_error {length : Byte} {buf : List Byte} {kind : ErrorKind}
    {reads : List Event} (h : MessageCase length buf (.error kind) reads) :
    resultByPriority length.toNat (buf.headD 0).toNat = .error kind := by
  cases h with
  | empty => rfl
  | longOneByte _ op params hop hlong =>
    have hopNat : op.toNat = 0 ∨ op.toNat = 1 := hop.imp (congrArg BitVec.toNat) (congrArg BitVec.toNat)
    exact (resultByPriority_eq_trailingBytes_iff ..).mpr (.inl ⟨hopNat, hlong⟩)
  | shortSettings _ params h1 hshort =>
    exact (resultByPriority_eq_missingParameters_iff ..).mpr ⟨rfl, by omega⟩
  | longSettings _ params hlong => exact (resultByPriority_eq_trailingBytes_iff ..).mpr (.inr ⟨rfl, hlong⟩)
  | unknown _ op params h1 hop => exact (resultByPriority_eq_invalidOpCode_iff ..).mpr ⟨h1, hop⟩

/-- A message that decodes to an instruction has none of the errors. -/
theorem MessageCase.resultByPriority_of_instr {length : Byte} {buf : List Byte} {i : Instr}
    {reads : List Event} (h : MessageCase length buf (.instr i) reads) :
    resultByPriority length.toNat (buf.headD 0).toNat = .success := by
  cases h <;> rfl

/-- A supplied message completes, with one Result by the order of R125, which it also leaves on RESULT. -/
theorem exists_effect_resultByPriority {s : State} {length : Byte} {buf : List Byte} {rest : List HostMove}
    (h : Presents s length buf rest) (hlen : length.toNat ≤ buf.length) :
    ∃ e : Effect, step s = .next ((s.setPending rest).after e) ∧
      results e.events = [resultByPriority length.toNat (buf.headD 0).toNat] ∧
      e.result = some (resultByPriority length.toNat (buf.headD 0).toNat) := by
  obtain ⟨e, he⟩ := exists_moveEffect_of_supplied hlen s.ledreg
  have hresult : e.result = some (resultByPriority length.toNat (buf.headD 0).toNat) := by
    rcases decode_supplied hlen with ⟨i, hd⟩ | ⟨kind, hd⟩
    · rw [(moveEffect_of_instr he hd).1, instrEffect_result_of_message (isMessage_of_decode hd),
        MessageCase.resultByPriority_of_instr (hd ▸ message_case hlen)]
    · rw [(moveEffect_of_error he hd).1, MessageCase.resultByPriority_of_error (hd ▸ message_case hlen)]
  exact ⟨e, step_of_effect h he, by rw [moveEffect_results he, hresult]; rfl, hresult⟩

/-- Settles O32: the effect of a supplied message delivers the one Result that it leaves on RESULT. -/
theorem oneResultByPriority : Obligations.OneResultByPriority := by
  intro s length buf rest h hlen
  obtain ⟨e, hstep, hresults, hresult⟩ := exists_effect_resultByPriority h hlen
  exact ⟨_, e.events, hstep, rfl, hresults, hresult⟩

/-- A message with an error in the order of R125 decodes to that error: the order leaves the decoder no choice. -/
theorem decode_of_resultByPriority_error {length : Byte} {buf : List Byte} {kind : ErrorKind}
    (hlen : length.toNat ≤ buf.length)
    (hresult : resultByPriority length.toNat (buf.headD 0).toNat = .error kind) :
    decode (.message length buf) = .error kind := by
  rcases decode_supplied hlen with ⟨i, hd⟩ | ⟨kind', hd⟩
  · cases hresult.symm.trans (MessageCase.resultByPriority_of_instr (hd ▸ message_case hlen))
  · cases hresult.symm.trans (MessageCase.resultByPriority_of_error (hd ▸ message_case hlen))
    exact hd

/-- Settles O30: the order of R125 gives each error its cause, read off the opcode byte where there is one; the outcome is
the decoder's error. -/
theorem eachErrorHasExactlyItsCause : Obligations.EachErrorHasExactlyItsCause := by
  intro s length buf rest h hlen
  obtain ⟨e, hstep, -, hresult⟩ := exists_effect_resultByPriority h hlen
  have hkind : ∀ kind, ((s.setPending rest).after e).result = some (.error kind) ↔
      resultByPriority length.toNat (buf.headD 0).toNat = .error kind := fun kind => by
    rw [State.after_result, hresult, Option.some.injEq]
  have hnil : buf = [] → length.toNat = 0 := fun hbuf => by simpa [hbuf] using hlen
  refine ⟨_, hstep, ?empty, ?invalidOpCode, ?trailingBytes, ?missingParameters, fun kind hshown =>
    endsInError_of_decode h hlen (decode_of_resultByPriority_error hlen ((hkind kind).mp hshown))⟩
  case empty =>
    rw [hkind, resultByPriority_eq_empty_iff]
    exact (length_eq_iff length 0 (by decide)).symm
  case invalidOpCode =>
    rw [hkind, resultByPriority_eq_invalidOpCode_iff]
    cases buf with
    | nil => simp [hnil rfl]
    | cons op params => simp
  case trailingBytes =>
    rw [hkind, resultByPriority_eq_trailingBytes_iff]
    cases buf with
    | nil => simp [hnil rfl]
    | cons op params => simp [← BitVec.toNat_inj]
  case missingParameters =>
    rw [hkind, resultByPriority_eq_missingParameters_iff]
    cases buf with
    | nil => simp
    | cons op params => simp [← BitVec.toNat_inj]

end Sys2Proof.Machine

/-! PROOFS. RESULT shows the code of the Result, and the codes tell the Results apart (R120). -/

namespace Sys2Proof

/-- The five Results (R120). -/
def allResults : List Result :=
  [.success, .error .empty, .error .invalidOpCode, .error .trailingBytes, .error .missingParameters]

theorem mem_allResults (r : Result) : r ∈ allResults := by
  cases r with
  | success => decide
  | error kind => cases kind <;> decide

/-- R120's constraint is that no two of the five Results share a code. -/
theorem ResultCodes.admissible_iff_nodup_codes (c : ResultCodes) : c.admissible = true ↔ (allResults.map c.code).Nodup :=
  decide_eq_true_iff

theorem ResultCodes.code_injective {c : ResultCodes} (h : c.admissible = true) {r₁ r₂ : Result}
    (hcode : c.code r₁ = c.code r₂) : r₁ = r₂ :=
  List.inj_on_of_nodup_map ((ResultCodes.admissible_iff_nodup_codes c).mp h) (mem_allResults r₁) (mem_allResults r₂) hcode

/-- Success, and only Success, is 0 (R120). -/
theorem ResultCodes.code_eq_zero_iff {c : ResultCodes} (h : c.admissible = true) (r : Result) :
    c.code r = 0 ↔ r = .success :=
  ⟨fun hzero => ResultCodes.code_injective h (r₂ := .success) hzero, fun hr => hr ▸ rfl⟩

/-- The platform's codes, or else the defaults in their place, meet the constraint (D6; log 5). -/
theorem resultCodes_admissible : Config.resultCodes.admissible = true := by
  unfold Config.resultCodes
  split
  · assumption
  · decide

end Sys2Proof

namespace Sys2Proof.Machine

/-- A driven RESULT port shows its Result's code (R120). -/
theorem State.resultPort_of_result {s : State} {r : Result} (h : s.result = some r) :
    s.resultPort = Config.resultCodes.code r := by
  simp only [State.resultPort, h]

/-- Settles O33: an admissible assignment is injective, the platform's is admissible, and a supplied message drives
RESULT. -/
theorem resultPortTellsTheResultsApart : Obligations.ResultPortTellsTheResultsApart := by
  refine ⟨resultCodes_admissible, fun c hc => ⟨rfl, fun _ _ => ResultCodes.code_injective hc⟩, ?_⟩
  intro s length buf rest h hlen
  obtain ⟨e, hstep, -, hresult⟩ := exists_effect_resultByPriority h hlen
  have hport := State.resultPort_of_result (s := (s.setPending rest).after e) hresult
  exact ⟨_, _, hstep, hresult, hport, by rw [hport, ResultCodes.code_eq_zero_iff resultCodes_admissible]⟩

end Sys2Proof.Machine

/-! PROOFS. No move reads back a past Result, the record or the counter (R130). -/

namespace Sys2Proof.Machine

/-- If a step is refused, then the next move was an operation that the decoder refuses, and the step names the duty. -/
theorem step_refused_cases {s : State} {r : Refusal} (h : step s = .refused r) :
    ∃ o rest duty, s.pending = .operation o :: rest ∧ decode o = .refused duty ∧ r = Refusal.ofDuty duty := by
  cases hp : s.pending with
  | nil =>
    rw [step_of_no_move hp] at h
    cases h
  | cons m ms =>
    cases he : moveEffect m s.ledreg with
    | none =>
      obtain ⟨o, duty, rfl, hd, hstep⟩ := step_of_no_effect hp he
      exact ⟨o, ms, duty, rfl, hd, Host.Outcome.refused.inj (h.symm.trans hstep)⟩
    | some e =>
      rw [step_of_effect hp he] at h
      cases h

/-- Settles O35: the effect of a move, or its refusal, depends on LEDREG and on the moves alone. -/
theorem pastOutputsAreNeverReadBack : Obligations.PastOutputsAreNeverReadBack := by
  intro s result trace draws
  refine ⟨fun t hstep => ?next, fun r hrefused => ?refused⟩
  case next =>
    rcases step_cases hstep with ⟨hnone, rfl⟩ | ⟨m, ms, e, hp, he, rfl⟩
    · exact ⟨_, [], step_of_no_move hnone, rfl, rfl, by simp, by simp, fun hsome => absurd hnone hsome⟩
    · exact ⟨_, e.events, step_of_effect hp he, rfl, rfl, rfl, rfl, fun _ => rfl⟩
  case refused =>
    obtain ⟨o, rest, duty, hp, hd, rfl⟩ := step_refused_cases hrefused
    exact step_of_refused hp hd

end Sys2Proof.Machine

/-! PROOFS. No move left, the reset event (R140, R152), and where the invariants start (R15, R141). -/

namespace Sys2Proof.Machine

/-- Settles O8: the step without a move. -/
theorem noMoveLeftChangesNothing : Obligations.NoMoveLeftChangesNothing := fun _ => step_of_no_move

/-- The step of a reset event is the meaning of INIT: both have the effect of one write (R140). -/
theorem step_of_reset {s : State} {rest : List HostMove} (h : s.pending = .reset :: rest) :
    step s = exec .init (s.setPending rest) := by
  have hreset : step s = .next ((s.setPending rest).after clearEffect) := step_of_effect h rfl
  rw [hreset, exec_eq]
  rfl

/-- Settles O39: the step is INIT's meaning, whose effect is one write. -/
theorem resetEventIsInit : Obligations.ResetEventIsInit := fun s rest h =>
  ⟨(step_of_reset h).trans (exec_eq .init (s.setPending rest)), step_of_reset h⟩

/-- The one event recorded at reset is a write, so no Result is due and none is driven (R141). -/
theorem reset_resultShown : State.reset.ResultShown := fun r => by
  simp [State.reset]

/-- Settles O46: the write of 0x00 explains the register at reset, whatever it held; at power-up the record is empty, and
the register's own value explains it. -/
theorem invariantsHoldAtResetAndPowerUp : Obligations.InvariantsHoldAtResetAndPowerUp :=
  ⟨⟨0x00, rfl⟩, reset_resultShown, fun u => ⟨⟨u, rfl⟩, powerUp_resultShown u State.powerUp.pending⟩⟩

end Sys2Proof.Machine
